-- ==== Sys2Proof/Word.lean ====
section
/-! DEFINITION. The word types of TCODEC (00_scope.md R7): byte 8 bits, word 16 bits, Q-operand 32 bits, command word
36 bits. Bit 0 is the least significant bit. -/

namespace Sys2Proof

/-- A raw 8-bit sensor register byte. -/
abbrev Byte := BitVec 8

/-- A 16-bit register word or transport word. -/
abbrev Word := BitVec 16

/-- A Q-operand: 32 bits, twos complement, 16 fraction bits. -/
abbrev QWord := BitVec 32

/-- A command word, `cmd[35:0]`. -/
abbrev CommandWord := BitVec 36

end Sys2Proof
end

