-- ==== Sys2Proof/Syntax.lean ====
section
/-! DEFINITION. The commands of TCODEC, one constructor per row of spec/opcode_table.json (30_encoding.md R55). An
operand has exactly the width of its field, so every term is a command the encoding admits. -/

namespace Sys2Proof

/-- The thirteen commands (R55). `b` is a raw register byte (format B, R52), `t` a transport word (format H, R53), `q` a
Q-operand (format Q, R54). -/
inductive Instr where
  | nop
  | ldcfg (b : Byte)
  | ldstat (b : Byte)
  | ldtmsb (b : Byte)
  | ldtlsb (b : Byte)
  | ldalrm (t : Word)
  | ldhyst (b : Byte)
  | ldid (b : Byte)
  | dect
  | decsp (t : Word)
  | encsp (q : QWord)
  | enchy (q : QWord)
  | clr
deriving DecidableEq, Repr

/-- The four formats of a command word (R51 to R54). -/
inductive Format where
  | n
  | b
  | h
  | q
deriving DecidableEq, Repr

end Sys2Proof
end

