-- ==== Sys2Proof/WellFormed.lean ====
section
/-! DEFINITION. Well-formed command words (30_encoding.md R51 to R58): a defined opcode, and every must-be-zero bit of
its format zero. A term of `Instr` needs no check: its operands have the widths of their fields. -/

namespace Sys2Proof

/-- The format of an opcode, none where it is reserved (R55, R57). -/
def formatOfOpcode (op : Nat) : Option Format :=
  match op with
  | 0x0 | 0x8 | 0xF => some .n
  | 0x1 | 0x2 | 0x3 | 0x4 | 0x6 | 0x7 => some .b
  | 0x5 | 0x9 => some .h
  | 0xA | 0xB => some .q
  | _ => none

/-- The number of operand bits of a format; the argument's other bits must be zero (R51 to R54). -/
def Format.operandBits : Format → Nat
  | .n => 0
  | .b => 8
  | .h => 16
  | .q => 32

/-- The word has a defined opcode and its must-be-zero bits are zero (R57, R58). -/
def wordWellFormed (w : CommandWord) : Bool :=
  match formatOfOpcode (w.toNat / 2 ^ 32) with
  | some f => decide (w.toNat % 2 ^ 32 < 2 ^ f.operandBits)
  | none => false

end Sys2Proof
end

