-- ==== Sys2Proof/Decode.lean ====
section
/-! DEFINITION. Command word to command and back (30_encoding.md R50 to R62). The decoder is total on all 2^36 words
and needs no state; an illegal word decodes to none. No operand is scaled, shifted, extended or swapped here (R62). -/

namespace Sys2Proof

/-- `cmd[35:32]`, the opcode (R50). -/
def opcodeOf (w : CommandWord) : BitVec 4 := w.extractLsb' 32 4

/-- `cmd[31:0]`, the argument (R50). -/
def argOf (w : CommandWord) : BitVec 32 := w.extractLsb' 0 32

/-- Format N: the argument must be all zeros (R51). -/
def formatN (i : Instr) (arg : BitVec 32) : Option Instr :=
  if arg = 0 then some i else none

/-- Format B: `b = arg[7:0]`, `arg[31:8]` all zeros (R52). -/
def formatB (mk : Byte → Instr) (arg : BitVec 32) : Option Instr :=
  if arg.extractLsb' 8 24 = 0 then some (mk (arg.extractLsb' 0 8)) else none

/-- Format H: `t = arg[15:0]`, `arg[31:16]` all zeros (R53). -/
def formatH (mk : Word → Instr) (arg : BitVec 32) : Option Instr :=
  if arg.extractLsb' 16 16 = 0 then some (mk (arg.extractLsb' 0 16)) else none

/-- Format Q: `q = arg[31:0]`, every pattern well formed (R54). -/
def formatQ (mk : QWord → Instr) (arg : BitVec 32) : Option Instr :=
  some (mk arg)

/-- The command of an opcode and an argument, none where they are illegal (R55 to R58). -/
def decodeFields (op : Nat) (arg : BitVec 32) : Option Instr :=
  match op with
  | 0x0 => formatN .nop arg
  | 0x1 => formatB .ldcfg arg
  | 0x2 => formatB .ldstat arg
  | 0x3 => formatB .ldtmsb arg
  | 0x4 => formatB .ldtlsb arg
  | 0x5 => formatH .ldalrm arg
  | 0x6 => formatB .ldhyst arg
  | 0x7 => formatB .ldid arg
  | 0x8 => formatN .dect arg
  | 0x9 => formatH .decsp arg
  | 0xA => formatQ .encsp arg
  | 0xB => formatQ .enchy arg
  | 0xF => formatN .clr arg
  | _ => none

/-- The command a word is, or none where the word is illegal (R56). -/
def decode (w : CommandWord) : Option Instr := decodeFields (opcodeOf w).toNat (argOf w)

/-- A command's opcode (R55). -/
def Instr.opcode : Instr → BitVec 4
  | .nop => 0x0
  | .ldcfg _ => 0x1
  | .ldstat _ => 0x2
  | .ldtmsb _ => 0x3
  | .ldtlsb _ => 0x4
  | .ldalrm _ => 0x5
  | .ldhyst _ => 0x6
  | .ldid _ => 0x7
  | .dect => 0x8
  | .decsp _ => 0x9
  | .encsp _ => 0xA
  | .enchy _ => 0xB
  | .clr => 0xF

/-- A command's argument field, must-be-zero bits zero (R51 to R54). -/
def Instr.arg : Instr → BitVec 32
  | .nop | .dect | .clr => 0
  | .ldcfg b | .ldstat b | .ldtmsb b | .ldtlsb b | .ldhyst b | .ldid b => b.setWidth 32
  | .ldalrm t | .decsp t => t.setWidth 32
  | .encsp q | .enchy q => q

/-- The word of a command (R50). -/
def encode (i : Instr) : CommandWord := i.opcode ++ i.arg

/-- A command's mnemonic (R55). -/
def Instr.mnemonic : Instr → String
  | .nop => "NOP"
  | .ldcfg _ => "LDCFG"
  | .ldstat _ => "LDSTAT"
  | .ldtmsb _ => "LDTMSB"
  | .ldtlsb _ => "LDTLSB"
  | .ldalrm _ => "LDALRM"
  | .ldhyst _ => "LDHYST"
  | .ldid _ => "LDID"
  | .dect => "DECT"
  | .decsp _ => "DECSP"
  | .encsp _ => "ENCSP"
  | .enchy _ => "ENCHY"
  | .clr => "CLR"

/-- A row of the opcode table (R56). -/
structure OpcodeRow where
  mnemonic : String
  pattern : CommandWord
  mask : CommandWord
deriving DecidableEq, Repr

/-- A word is the command of the row for which `(c & mask) == match` (R56). -/
def OpcodeRow.fits (r : OpcodeRow) (w : CommandWord) : Bool := w &&& r.mask == r.pattern

/-- spec/opcode_table.json as it stands: each row's mnemonic, match and mask (R56). The decoder does not read it. -/
def opcodeTable : List OpcodeRow :=
  [⟨"NOP", 0x000000000, 0xFFFFFFFFF⟩,
   ⟨"LDCFG", 0x100000000, 0xFFFFFFF00⟩,
   ⟨"LDSTAT", 0x200000000, 0xFFFFFFF00⟩,
   ⟨"LDTMSB", 0x300000000, 0xFFFFFFF00⟩,
   ⟨"LDTLSB", 0x400000000, 0xFFFFFFF00⟩,
   ⟨"LDALRM", 0x500000000, 0xFFFFF0000⟩,
   ⟨"LDHYST", 0x600000000, 0xFFFFFFF00⟩,
   ⟨"LDID", 0x700000000, 0xFFFFFFF00⟩,
   ⟨"DECT", 0x800000000, 0xFFFFFFFFF⟩,
   ⟨"DECSP", 0x900000000, 0xFFFFF0000⟩,
   ⟨"ENCSP", 0xA00000000, 0xF00000000⟩,
   ⟨"ENCHY", 0xB00000000, 0xF00000000⟩,
   ⟨"CLR", 0xF00000000, 0xFFFFFFFFF⟩]

/-- The command word whose bits are the low `nbits` bits of `w`, none where a bit lies above the 36 lines of the command
port (DEDUCED, log entry 10: a row is 36 bits, given in whole bytes). -/
def tableWord (nbits w : Nat) : Option CommandWord :=
  let bits := w % 2 ^ nbits
  if bits < 2 ^ 36 then some (BitVec.ofNat 36 bits) else none

/-- The command the decoder reads from a table word. -/
def decodeTableWord (nbits w : Nat) : Option Instr :=
  (tableWord nbits w).bind decode

end Sys2Proof
end

