-- ==== Sys2Proof/Config.lean ====
section
/-! DEFINITION. What the spec leaves to an implementation (00_scope.md R6): the types of the parameters, and the open
parameter LATENCY. The values the spec takes stand in Machine/Constants.lean. -/

namespace Sys2Proof

/-- Parameter `TIE` (R83): what `round` does at an exact half. -/
inductive Tie where
  | halfAwayFromZero
  | halfToEven
deriving DecidableEq, Repr

/-- Parameter `HYST_CHECK_ORDER` (R89): which of ENCHY's two checks is made first. -/
inductive HystCheckOrder where
  | rangeFirst
  | wholeFirst
deriving DecidableEq, Repr

/-- The parameters a command of the block reads (R6). -/
structure Params where
  /-- `RES16_CFG7`: the value of configuration bit 7 that means SixteenBit. -/
  res16Cfg7 : Bool
  tie : Tie
  hystCheckOrder : HystCheckOrder
deriving DecidableEq, Repr

/-- Parameter `LATENCY` (R6, R153): OPEN, the time one command takes. No rule depends on it and nothing reads it. -/
opaque Config.latency : Nat

end Sys2Proof
end

