-- ==== Sys2Proof/Machine/Constants.lean ====
section
/-! DEFINITION. The constants the source fixes (00_scope.md R5) and the parameter values the spec takes (R6). -/

namespace Sys2Proof.Machine

/-- `SCALE16`: counts per degree in SixteenBit mode and for every setpoint. -/
def scale16 : Nat := 128

/-- `SCALE13`: counts per degree in ThirteenBit mode. -/
def scale13 : Nat := 16

/-- `SHIFT13`: the right shift of the masked word in ThirteenBit mode. -/
def shift13 : Nat := 3

/-- `MAGMASK`: bits 14 to 0. -/
def magMask : Word := 0x7FFF

/-- `SIGNBIT`: bit 15. -/
def signBit : Word := 0x8000

/-- `RESBIT`: the bit of the configuration byte that carries the resolution. -/
def resBit : Nat := 7

/-- `BUSYBIT`: the bit of the status byte that is 1 while a conversion is busy. -/
def busyBit : Nat := 7

/-- `ALO_BIT`, `AHI_BIT`, `ACR_BIT`: bits of the swapped alarm word. -/
def aloBit : Nat := 0
def ahiBit : Nat := 1
def acrBit : Nat := 2

/-- `IN_FRAC`: fraction bits of a Q-operand (R6). -/
def inFrac : Nat := 16

/-- `SP_MIN`, `SP_MAX`: the caller's setpoint range in degrees, both ends allowed. -/
def spMin : Int := -40
def spMax : Int := 125

/-- `HYST_MIN`, `HYST_MAX`: the caller's hysteresis range in degrees, both ends allowed. -/
def hystMin : Int := 0
def hystMax : Int := 15

/-- A whole number of degrees as the integer `sint(q)` of its Q-operand (R80). -/
def degreesQ (d : Int) : Int := d * 2 ^ inFrac

/-- `ID_EXPECTED`. -/
def idExpected : Byte := 0xCB

/-- `CFG_POR`: the configuration byte's power-on default. -/
def cfgPor : Byte := 0x00

/-- `REG_LO`, `REG_HI`: the bounds of the sensor's register addresses. -/
def regLo : Byte := 0x00
def regHi : Byte := 0x2F

/-- The parameter values the spec takes (R6): `RES16_CFG7 = 1` (PRESUMED: general knowledge, D10, G1; log entry 5),
`TIE = half_away_from_zero` (D8; log entry 6), range first (D12; log entry 7). -/
def paramsTaken : Params :=
  { res16Cfg7 := true, tie := .halfAwayFromZero, hystCheckOrder := .rangeFirst }

end Sys2Proof.Machine
end

