-- ==== Sys2Proof/Machine/State.lean ====
section
/-! DEFINITION. The state of TCODEC (10_state.md R13 to R20), its reset state (R27, R141), the reasons a read of a port
or a step can stop. -/

namespace Sys2Proof.Machine

/-- The error codes 0 to 4 (60_exceptions.md R120). Codes 5 to 7 are reserved and never produced, so they have no
constructor (U9; log entry 8). Their numbers stand in Machine/Ports.lean. -/
inductive ErrorCode where
  /-- 0: the command completed. -/
  | eNone
  /-- 1: the command word matches no row of the opcode table (R122). -/
  | eIllcmd
  /-- 2: DECT read an empty register or field (R123). -/
  | eEmpty
  /-- 3: a setpoint or hysteresis value out of range (R124). -/
  | eRange
  /-- 4: a hysteresis value that is not whole (R125). -/
  | eNonint
deriving DecidableEq, Repr

/-- The eight fields of `FLAGS`, each a bit or empty (R13, R19). -/
structure Flags where
  /-- Bit 7: the resolution bit of the configuration byte last loaded. -/
  res : Option Bool
  /-- Bit 6: the sign bit of the register word last decoded. -/
  neg : Option Bool
  /-- Bit 5: the identity byte last loaded equals 0xCB. -/
  idok : Option Bool
  /-- Bit 4: the configuration byte last loaded equals 0x00. -/
  cfgz : Option Bool
  /-- Bit 3: the status byte last loaded says ready. -/
  rdy : Option Bool
  /-- Bit 2: critical alarm. -/
  acr : Option Bool
  /-- Bit 1: high alarm. -/
  ahi : Option Bool
  /-- Bit 0: low alarm. -/
  alo : Option Bool
deriving DecidableEq, Repr

/-- One sample of the input ports (R11). -/
structure PortInput where
  rst : Bool
  cmdValid : Bool
  cmd : CommandWord
deriving DecidableEq, Repr

/-- The state. Every register of the block is value-or-empty but `ERR` (R13, R14). -/
structure State where
  /-- `TMSB`: the temperature MSB byte last loaded (R15). -/
  tmsb : Option Byte
  /-- `TLSB`: the temperature LSB byte last loaded (R15). -/
  tlsb : Option Byte
  /-- `DOUT`: the data output, register order (R16). -/
  dout : Option Word
  /-- `TOUT`: the encoded setpoint, transport order (R17). -/
  tout : Option Word
  /-- `VAL`: the decoded temperature, twos complement, 1/128 degree (R18). -/
  val : Option Word
  /-- `FLAGS` (R19). -/
  flags : Flags
  /-- `ERR` (R20). -/
  err : ErrorCode
  /-- MODEL's own: the samples of the input ports still to be taken, oldest first (R11; log entry 1). -/
  inputs : List PortInput
  /-- MODEL's own: the block's parameters, which no step changes (R6, R26; log entry 4). -/
  params : Params
deriving DecidableEq, Repr

/-- The names of the `FLAGS` fields (R19). -/
inductive FlagName where
  | res
  | neg
  | idok
  | cfgz
  | rdy
  | acr
  | ahi
  | alo
deriving DecidableEq, Repr

/-- The value-or-empty registers and fields (R13, R14). -/
inductive Reg where
  | tmsb
  | tlsb
  | dout
  | tout
  | val
  | flag (f : FlagName)
deriving DecidableEq, Repr

/-- The output ports that carry a valid bit (R11); each `FLAGS` field has one of its own. -/
inductive OutPort where
  | dout
  | tout
  | val
  | flag (f : FlagName)
deriving DecidableEq, Repr

/-- Why a read can stop. No step of the block raises a fault: its errors are states (R121, R128). -/
inductive Fault where
  /-- Raised by `readPort` when the host reads an output port whose valid bit is 0 (U7). Safe: the wires carry no defined
  value and the model gives none. -/
  | emptyOutput (p : OutPort)
deriving DecidableEq, Repr

/-- Why a step can be refused. Every command of the table has its meaning, so no step is. -/
inductive Refusal where
  /-- The host's name for an arm of `exec` without a meaning; no arm raises it. Safe: it stops. -/
  | notModelled (mnemonic : String)
deriving DecidableEq, Repr

/-- All eight fields empty. -/
def Flags.empty : Flags :=
  { res := none, neg := none, idok := none, cfgz := none, rdy := none, acr := none, ahi := none, alo := none }

/-- The state right after reset (R27, R141): every register and field empty, `ERR = 0`; nothing presented yet (log
entry 1); the parameters at the values the spec takes. -/
def State.reset : State :=
  { tmsb := none, tlsb := none, dout := none, tout := none, val := none,
    flags := Flags.empty, err := .eNone, inputs := [], params := paramsTaken }

end Sys2Proof.Machine
end

