-- ==== Sys2Proof/Machine/Flags.lean ====
section
/-! DEFINITION. What each field of `FLAGS` is computed from (10_state.md R19; the `LD*` rules R96 to R102). -/

namespace Sys2Proof.Machine

/-- `RES`: bit 7 of the configuration byte (R96). -/
def flagRes (cfg : Byte) : Bool := cfg.getLsbD resBit

/-- `CFGZ`: the configuration byte equals its power-on default (R96). -/
def flagCfgz (cfg : Byte) : Bool := cfg == cfgPor

/-- `RDY`: the not of the status byte's busy bit (R97). -/
def flagRdy (status : Byte) : Bool := !status.getLsbD busyBit

/-- `IDOK`: the identity byte equals 0xCB (R102). -/
def flagIdok (ident : Byte) : Bool := ident == idExpected

/-- `ALO`, `AHI`, `ACR`: bits 0, 1, 2 of the swapped alarm word (R100). -/
def flagAlo (a : Word) : Bool := a.getLsbD aloBit
def flagAhi (a : Word) : Bool := a.getLsbD ahiBit
def flagAcr (a : Word) : Bool := a.getLsbD acrBit

/-- `NEG`: the sign bit of the register word, not the sign of the value (R65, R71). -/
def flagNeg (w : Word) : Bool := w.getLsbD 15

end Sys2Proof.Machine
end

