-- ==== Sys2Proof/Machine/Operands.lean ====
section
/-! DEFINITION. The operand forms of the commands: bytes, transport words, Q-operands (20_memory.md R34 to R36,
30_encoding.md R52 to R54, R62). -/

namespace Sys2Proof.Machine

/-- `swap16(x) = x[7:0] ++ x[15:8]` (R7, R35). -/
def swap16 (x : Word) : Word := x.extractLsb' 0 8 ++ x.extractLsb' 8 8

/-- A byte as `DOUT` shows it, `zext_16(b)` (R16, R95). -/
def zext16 (b : Byte) : Word := b.setWidth 16

/-- `TMSB ++ TLSB`, no byte swap (R36, R72). -/
def joinBytes (msb lsb : Byte) : Word := msb ++ lsb

/-- `sint(q)` (R7). -/
def sintQ (q : QWord) : Int := q.toInt

/-- The fraction part `q[15:0]` (R88). -/
def fractionOfQ (q : QWord) : Word := q.extractLsb' 0 16

/-- `q[23:16]`, the hysteresis byte (R88). -/
def hystByteOfQ (q : QWord) : Byte := q.extractLsb' 16 8

end Sys2Proof.Machine
end

