-- ==== Sys2Proof/Machine/Ops.lean ====
section
/-! DEFINITION. The named operations over the registers: reading and emptying one by name, ending a command (R8), raising
an error (R121), resetting the block (R27, R140), taking a sample of the input ports (R11). -/

namespace Sys2Proof.Machine

/-- What a command answers. -/
abbrev Answer := Host.Outcome State Fault Refusal

/-- One field of `FLAGS` by name. -/
def Flags.get (fl : Flags) : FlagName → Option Bool
  | .res => fl.res
  | .neg => fl.neg
  | .idok => fl.idok
  | .cfgz => fl.cfgz
  | .rdy => fl.rdy
  | .acr => fl.acr
  | .ahi => fl.ahi
  | .alo => fl.alo

/-- Empty one field of `FLAGS`. -/
def Flags.clear (fl : Flags) : FlagName → Flags
  | .res => { fl with res := none }
  | .neg => { fl with neg := none }
  | .idok => { fl with idok := none }
  | .cfgz => { fl with cfgz := none }
  | .rdy => { fl with rdy := none }
  | .acr => { fl with acr := none }
  | .ahi => { fl with ahi := none }
  | .alo => { fl with alo := none }

def State.setTmsb (s : State) (x : Option Byte) : State := { s with tmsb := x }
def State.setTlsb (s : State) (x : Option Byte) : State := { s with tlsb := x }
def State.setDout (s : State) (x : Option Word) : State := { s with dout := x }
def State.setTout (s : State) (x : Option Word) : State := { s with tout := x }
def State.setVal (s : State) (x : Option Word) : State := { s with val := x }
def State.setFlags (s : State) (x : Flags) : State := { s with flags := x }
def State.setErr (s : State) (x : ErrorCode) : State := { s with err := x }
def State.setInputs (s : State) (x : List PortInput) : State := { s with inputs := x }

/-- A register or field by name, as a number (a byte or a bit zero-extended), none where it is empty (R13). -/
def State.get (s : State) : Reg → Option Nat
  | .tmsb => s.tmsb.map BitVec.toNat
  | .tlsb => s.tlsb.map BitVec.toNat
  | .dout => s.dout.map BitVec.toNat
  | .tout => s.tout.map BitVec.toNat
  | .val => s.val.map BitVec.toNat
  | .flag f => (s.flags.get f).map Bool.toNat

/-- `REG <- empty` (R7). -/
def State.emptyReg (s : State) : Reg → State
  | .tmsb => s.setTmsb none
  | .tlsb => s.setTlsb none
  | .dout => s.setDout none
  | .tout => s.setTout none
  | .val => s.setVal none
  | .flag f => s.setFlags (s.flags.clear f)

/-- `ok()`: `ERR <- 0` and the command ends (R8). -/
def ok (s : State) : Answer := .next (s.setErr .eNone)

/-- `raise E(code)` (R121): `ERR <- code`, the registers and fields the command would have written are emptied, every
other register keeps its value. No control transfer, nothing saved, no return from it (R128, R129). -/
def raise (code : ErrorCode) (emptied : List Reg) (s : State) : Answer :=
  .next ((emptied.foldl State.emptyReg s).setErr code)

/-- What an illegal word does: it is no command and has no destinations, so only `ERR` changes (R57, R58, R122). -/
def raiseIllegal (s : State) : Answer := raise .eIllcmd [] s

/-- The block's registers at reset, the host's samples and the parameters kept (R27, R140, R142). -/
def State.resetBlock (s : State) : State :=
  { State.reset with inputs := s.inputs, params := s.params }

/-- What the input ports say in one step. -/
inductive PortEvent where
  /-- No command word is presented. -/
  | idle
  /-- `rst` is asserted. -/
  | reset
  /-- A command word is presented. -/
  | command (w : CommandWord)
deriving DecidableEq, Repr

/-- A sample read: while `rst` is asserted no command executes, whatever `cmd_valid` is (R11, R140; log entry 2). -/
def PortInput.event (p : PortInput) : PortEvent :=
  if p.rst then .reset else if p.cmdValid then .command p.cmd else .idle

/-- The oldest sample taken off the list; where none is left nothing is presented (log entries 1, 3). -/
def takeInput (s : State) : PortEvent × State :=
  match s.inputs with
  | [] => (.idle, s)
  | p :: rest => (p.event, s.setInputs rest)

/-- The host presents one command word (R11). -/
def present (w : CommandWord) : PortInput := { rst := false, cmdValid := true, cmd := w }

/-- The host presents nothing. -/
def presentNothing : PortInput := { rst := false, cmdValid := false, cmd := 0 }

/-- The host asserts `rst`. -/
def assertRst : PortInput := { rst := true, cmdValid := false, cmd := 0 }

end Sys2Proof.Machine
end

