-- ==== Sys2Proof/Machine/Control.lean ====
section
/-! DEFINITION. The control commands NOP and CLR (43_control.md). -/

namespace Sys2Proof.Machine

/-- NOP (R115): nothing is read or written, `ERR` keeps its value. -/
def execNop (s : State) : Answer := .next s

/-- CLR (R116): every register and field to the reset state, `ERR <- 0`. -/
def execClr (s : State) : Answer := .next s.resetBlock

end Sys2Proof.Machine
end

