-- ==== Sys2Proof/Machine/Codec.lean ====
section
/-! DEFINITION. The pure functions of the codec: `dec16`, `dec13`, `val128` (40_decode.md R65 to R68) and `enc128` with
its rounding (41_encode.md R82, R83). They read no register and write none (R8). Degrees are exact rationals. -/

namespace Sys2Proof.Machine

/-- The two resolution modes (R9). -/
inductive Resolution where
  | thirteenBit
  | sixteenBit
deriving DecidableEq, Repr

/-- The mode a `RES` bit stands for (R19, R72). -/
def resolutionOf (p : Params) (res : Bool) : Resolution :=
  if res = p.res16Cfg7 then .sixteenBit else .thirteenBit

/-- Counts of a word at its native scale, the mask before the shift (R66, R67, R69). -/
def counts : Resolution → Word → Nat
  | .sixteenBit, w => (w &&& magMask).toNat
  | .thirteenBit, w => ((w &&& magMask) >>> shift13).toNat

/-- `dec16(W)` in degrees (R66). -/
def dec16 (w : Word) : ℚ :=
  let d : ℚ := (counts .sixteenBit w : ℚ) / scale16
  if w.getLsbD 15 then -d else d

/-- `dec13(W)` in degrees (R67). -/
def dec13 (w : Word) : ℚ :=
  let d : ℚ := (counts .thirteenBit w : ℚ) / scale13
  if w.getLsbD 15 then -d else d

/-- The decode of a resolution. -/
def degreesOf : Resolution → Word → ℚ
  | .sixteenBit => dec16
  | .thirteenBit => dec13

/-- The magnitude of a word in 1/128 degree (R68). -/
def magnitude128 : Resolution → Word → Nat
  | .sixteenBit, w => (w &&& 0x7FFF).toNat
  | .thirteenBit, w => (w &&& 0x7FF8).toNat

/-- `val128(r, W)`: the temperature as an integer count of 1/128 degree (R68). -/
def val128 (r : Resolution) (w : Word) : Int :=
  if w.getLsbD 15 then -(magnitude128 r w : Int) else magnitude128 r w

/-- `tc16(n)` (R7). -/
def tc16 (n : Int) : Word := BitVec.ofInt 16 n

/-- `tc32(n)` (R7). -/
def tc32 (n : Int) : QWord := BitVec.ofInt 32 n

/-- `round` of a non-negative rational, with the tie rule as argument (R83). -/
def roundTie (tie : Tie) (x : ℚ) : Nat :=
  let f := ⌊x⌋.toNat
  let r := x - f
  if r < 1 / 2 then f
  else if 1 / 2 < r then f + 1
  else match tie with
    | .halfAwayFromZero => f + 1
    | .halfToEven => if f % 2 = 0 then f else f + 1

/-- `enc128(v)`, none where it is undefined (R82): the sign bit follows the sign of the input (R84). -/
def enc128 (tie : Tie) (v : ℚ) : Option Word :=
  let m := roundTie tie (|v| * scale16)
  if m ≤ 32767 then
    some (if v < 0 then signBit ||| BitVec.ofNat 16 m else BitVec.ofNat 16 m)
  else none

/-- The value of a Q-operand in degrees (R54, R80). -/
def degreesOfQ (q : QWord) : ℚ := (sintQ q : ℚ) / 65536

/-- The rounded magnitude of a setpoint from `a = |sint(q)|`, in integer arithmetic (R82, R83, R86). -/
def setpointMagnitude (tie : Tie) (a : Nat) : Nat :=
  match tie with
  | .halfAwayFromZero => (a + 256) >>> 9
  | .halfToEven =>
    let f := a >>> 9
    let r := a % 512
    if 256 < r ∨ (r = 256 ∧ f % 2 = 1) then f + 1 else f

/-- The register word ENCSP packs from `s = sint(q)` (R84, R86). -/
def setpointWord (tie : Tie) (s : Int) : Word :=
  let m := BitVec.ofNat 16 (setpointMagnitude tie s.natAbs)
  if s < 0 then signBit ||| m else m

/-- `v < -40` or `v > 125`, tested on the unrounded value (R81). -/
def setpointOutOfRange (s : Int) : Bool := decide (s < degreesQ spMin ∨ degreesQ spMax < s)

/-- `v < 0` or `v > 15` (R88). -/
def hystOutOfRange (s : Int) : Bool := decide (s < degreesQ hystMin ∨ degreesQ hystMax < s)

/-- A non-zero fraction part (R88). -/
def hystFractional (q : QWord) : Bool := fractionOfQ q != 0

/-- The error ENCHY raises for an operand, if any, the checks in the order of the parameter (R88, R89). -/
def hystError (order : HystCheckOrder) (q : QWord) : Option ErrorCode :=
  match order with
  | .rangeFirst =>
    if hystOutOfRange (sintQ q) then some .eRange else if hystFractional q then some .eNonint else none
  | .wholeFirst =>
    if hystFractional q then some .eNonint else if hystOutOfRange (sintQ q) then some .eRange else none

end Sys2Proof.Machine
end

