-- ==== Sys2Proof/Machine/Decoder.lean ====
section
/-! DEFINITION. The temperature decoder: DECT and DECSP (40_decode.md R72, R73). -/

namespace Sys2Proof.Machine

/-- A register word decoded at a resolution: `VAL`, `NEG`, `DOUT` written, no range check (R70). -/
def decodeWord (r : Resolution) (w : Word) (s : State) : Answer :=
  ok (((s.setVal (some (tc16 (val128 r w)))).setFlags { s.flags with neg := some (flagNeg w) }).setDout (some w))

/-- What DECT empties when an input is missing (R28, R72). -/
def dectDestinations : List Reg := [.val, .flag .neg, .dout]

/-- DECT (R72): the latched reading at the resolution last loaded. The latches keep their values. -/
def execDect (s : State) : Answer :=
  match s.tmsb, s.tlsb, s.flags.res with
  | some m, some l, some res => decodeWord (resolutionOf s.params res) (joinBytes m l) s
  | _, _, _ => raise .eEmpty dectDestinations s

/-- DECSP (R73): swapped, then always at 1/128 degree, whatever `RES` holds. -/
def execDecsp (t : Word) (s : State) : Answer :=
  decodeWord .sixteenBit (swap16 t) s

end Sys2Proof.Machine
end

