-- ==== Sys2Proof/Machine/Encoder.lean ====
section
/-! DEFINITION. The setpoint and hysteresis encoder: ENCSP and ENCHY (41_encode.md R86, R88). -/

namespace Sys2Proof.Machine

/-- What a failed encode empties (R28, R45). -/
def encodeDestinations : List Reg := [.dout, .tout]

/-- An encode completed: the register word on `DOUT`, the transport word or nothing on `TOUT`. -/
def putEncoded (w : Word) (t : Option Word) (s : State) : Answer :=
  ok ((s.setDout (some w)).setTout t)

/-- ENCSP (R86): the range test before anything else. -/
def execEncsp (q : QWord) (s : State) : Answer :=
  if setpointOutOfRange (sintQ q) then raise .eRange encodeDestinations s
  else
    let w := setpointWord s.params.tie (sintQ q)
    putEncoded w (some (swap16 w)) s

/-- ENCHY (R88): never rounds; an 8-bit register has no transport word. -/
def execEnchy (q : QWord) (s : State) : Answer :=
  match hystError s.params.hystCheckOrder q with
  | some e => raise e encodeDestinations s
  | none => putEncoded (zext16 (hystByteOfQ q)) none s

end Sys2Proof.Machine
end

