-- ==== Sys2Proof/Machine/FieldMux.lean ====
section
/-! DEFINITION. The register bitfield multiplexer: the `LD*` commands (42_field_mux.md). -/

namespace Sys2Proof.Machine

/-- What every `LD*` command does (R95): the operand on `DOUT` in register order, the fields its class carries written
and no other, `ERR <- 0`. -/
def route (w : Word) (fl : Flags) (s : State) : Answer :=
  ok ((s.setFlags fl).setDout (some w))

/-- LDCFG (R96). -/
def execLdcfg (b : Byte) (s : State) : Answer :=
  route (zext16 b) { s.flags with res := some (flagRes b), cfgz := some (flagCfgz b) } s

/-- LDSTAT (R97). -/
def execLdstat (b : Byte) (s : State) : Answer :=
  route (zext16 b) { s.flags with rdy := some (flagRdy b) } s

/-- LDTMSB (R98). -/
def execLdtmsb (b : Byte) (s : State) : Answer :=
  route (zext16 b) s.flags (s.setTmsb (some b))

/-- LDTLSB (R99): no alarm flag is written. -/
def execLdtlsb (b : Byte) (s : State) : Answer :=
  route (zext16 b) s.flags (s.setTlsb (some b))

/-- LDALRM (R100): the transport word is swapped first. -/
def execLdalrm (t : Word) (s : State) : Answer :=
  let a := swap16 t
  route a { s.flags with alo := some (flagAlo a), ahi := some (flagAhi a), acr := some (flagAcr a) } s

/-- LDHYST (R101): no check and no mask on the read path. -/
def execLdhyst (b : Byte) (s : State) : Answer :=
  route (zext16 b) s.flags s

/-- LDID (R102): a mismatch is `IDOK = 0`, no error. -/
def execLdid (b : Byte) (s : State) : Answer :=
  route (zext16 b) { s.flags with idok := some (flagIdok b) } s

end Sys2Proof.Machine
end

