-- ==== Sys2Proof/Machine/Dispatch.lean ====
section
/-! DEFINITION. One arm per command, each one call of its meaning. -/

namespace Sys2Proof.Machine

def exec (i : Instr) (s : State) : Host.Outcome State Fault Refusal :=
  match i with
  | .nop => Sys2Proof.Machine.execNop s
  | .ldcfg b => Sys2Proof.Machine.execLdcfg b s
  | .ldstat b => Sys2Proof.Machine.execLdstat b s
  | .ldtmsb b => Sys2Proof.Machine.execLdtmsb b s
  | .ldtlsb b => Sys2Proof.Machine.execLdtlsb b s
  | .ldalrm t => Sys2Proof.Machine.execLdalrm t s
  | .ldhyst b => Sys2Proof.Machine.execLdhyst b s
  | .ldid b => Sys2Proof.Machine.execLdid b s
  | .dect => Sys2Proof.Machine.execDect s
  | .decsp t => Sys2Proof.Machine.execDecsp t s
  | .encsp q => Sys2Proof.Machine.execEncsp q s
  | .enchy q => Sys2Proof.Machine.execEnchy q s
  | .clr => Sys2Proof.Machine.execClr s

end Sys2Proof.Machine
end

