-- ==== Sys2Proof/Machine/Step.lean ====
section
/-! DEFINITION. One step of the block (10_state.md R10): it takes one sample of the input ports. -/

namespace Sys2Proof.Machine

/-- A presented command word: its command's meaning, or `E_ILLCMD` where it is none (R10, R122, R126). -/
def runWord (w : CommandWord) (s : State) : Answer :=
  match decode w with
  | some i => exec i s
  | none => raiseIllegal s

/-- One step: reset, a command word, or nothing presented (R10, R11, R140). -/
def step (s : State) : Host.Outcome State Fault Refusal :=
  match takeInput s with
  | (.idle, s') => .next s'
  | (.reset, s') => .next s'.resetBlock
  | (.command w, s') => runWord w s'

/-- The host presents a command word next, before the samples that wait (log entry 1). Where the number has a bit above
the port's 36 lines no word can be presented, and nothing is (log entry 10). -/
def State.withFetchWord (s : State) (nbits w : Nat) : State :=
  s.setInputs ((match tableWord nbits w with
    | some c => present c
    | none => presentNothing) :: s.inputs)

end Sys2Proof.Machine
end

