-- ==== Sys2Proof/Machine/Ports.lean ====
section
/-! DEFINITION. The output ports (10_state.md R11): wires from the registers. Observing them is no step and changes
nothing. Where a valid bit is 0 the data lines carry no defined value (U7) and the model gives them none. -/

namespace Sys2Proof.Machine

/-- The number of an error code on the 3-bit `err` port (60_exceptions.md R120). -/
def ErrorCode.code : ErrorCode → BitVec 3
  | .eNone => 0
  | .eIllcmd => 1
  | .eEmpty => 2
  | .eRange => 3
  | .eNonint => 4

/-- The bit of `FLAGS` a field stands at (R19). -/
def FlagName.bit : FlagName → Nat
  | .res => 7
  | .neg => 6
  | .idok => 5
  | .cfgz => 4
  | .rdy => 3
  | .acr => 2
  | .ahi => 1
  | .alo => 0

/-- The eight fields, bit 7 first. -/
def FlagName.all : List FlagName := [.res, .neg, .idok, .cfgz, .rdy, .acr, .ahi, .alo]

/-- Eight bits from a value for each field, each at its place in `FLAGS` (R19). -/
def packFlags (f : FlagName → Bool) : BitVec 8 :=
  FlagName.all.foldl (fun acc n => if f n then acc ||| BitVec.ofNat 8 (2 ^ n.bit) else acc) 0

/-- Port `err`. -/
def errPort (s : State) : BitVec 3 := s.err.code

/-- Ports `dout_v`, `tout_v`, `val_v`. -/
def doutV (s : State) : Bool := s.dout.isSome
def toutV (s : State) : Bool := s.tout.isSome
def valV (s : State) : Bool := s.val.isSome

/-- Port `flags_v`: bit for bit, which fields are non-empty. -/
def flagsV (s : State) : BitVec 8 := packFlags fun n => (s.flags.get n).isSome

/-- Port `flags` where every field is non-empty, none where some line carries no defined value. -/
def flagsPort (s : State) : Option (BitVec 8) :=
  if FlagName.all.all (fun n => (s.flags.get n).isSome)
  then some (packFlags fun n => (s.flags.get n).getD false)
  else none

/-- A port's register. -/
def OutPort.reg : OutPort → Reg
  | .dout => .dout
  | .tout => .tout
  | .val => .val
  | .flag f => .flag f

/-- The host reads an output port: its value, or a fault of the host where its valid bit is 0 (U7, D11; log entry 9). -/
def readPort (s : State) (p : OutPort) : Except Fault Nat :=
  match s.get p.reg with
  | some v => .ok v
  | none => .error (.emptyOutput p)

end Sys2Proof.Machine
end

