-- ==== Sys2Proof/Machine/RegisterMap.lean ====
section
/-! DEFINITION. The static register map of the sensor as the block sees it (00_scope.md R3; 10_state.md R21 to R25;
20_memory.md R31 to R33): class, widths, direction, format, scale. A lookup table; no command reads it. -/

namespace Sys2Proof.Machine

/-- The three setpoints (R9, R25). -/
inductive SetpointKind where
  | high
  | low
  | crit
deriving DecidableEq, Repr

/-- The register classes (R32). -/
inductive RegClass where
  | tempMsb
  | tempLsb
  | status
  | config
  | setpoint (k : SetpointKind)
  | hyst
  | id
  | reset
  | reserved
deriving DecidableEq, Repr

/-- How a register's bits are read (R21 to R25). -/
inductive RegFormat where
  /-- Bit 15 sign, bits 14 to 0 magnitude; 128 counts a degree, 16 in ThirteenBit mode. -/
  | temperature
  /-- Bit 15 sign, bits 14 to 0 magnitude; 128 counts a degree always. -/
  | setpoint
  /-- Whole degrees, one count a degree. -/
  | unsignedDegrees
  /-- Named bits, or a byte compared with a constant. -/
  | bitfield
  /-- A command register or a reserved one: no format given (N4, N23). -/
  | notGiven
deriving DecidableEq, Repr

/-- The widths, in bits, at which a class is accessed (R32, R38, C7); none stated for reset and reserved. -/
def RegClass.accessWidths : RegClass → List Nat
  | .tempMsb => [8, 16]
  | .tempLsb | .status | .config | .hyst | .id => [8]
  | .setpoint _ => [16]
  | .reset | .reserved => []

/-- The directions the source shows (R25, R32). -/
def RegClass.readable : RegClass → Bool
  | .tempMsb | .tempLsb | .status | .config | .setpoint _ | .hyst | .id => true
  | .reset | .reserved => false

def RegClass.writable : RegClass → Bool
  | .config | .setpoint _ | .hyst | .reset => true
  | .tempMsb | .tempLsb | .status | .id | .reserved => false

/-- The format of a class (R21 to R25). -/
def RegClass.format : RegClass → RegFormat
  | .tempMsb | .tempLsb => .temperature
  | .setpoint _ => .setpoint
  | .hyst => .unsignedDegrees
  | .status | .config | .id => .bitfield
  | .reset | .reserved => .notGiven

/-- Counts per degree of a format (R25), none where the register holds no number of degrees. -/
def RegFormat.scale : RegFormat → Resolution → Option Nat
  | .temperature, .sixteenBit => some scale16
  | .temperature, .thirteenBit => some scale13
  | .setpoint, _ => some scale16
  | .unsignedDegrees, _ => some 1
  | .bitfield, _ | .notGiven, _ => none

/-- The mnemonics of the commands that take a class's data, from a read or for a write (R32). -/
def RegClass.commands : RegClass → List String
  | .tempMsb => ["LDTMSB", "LDALRM"]
  | .tempLsb => ["LDTLSB"]
  | .status => ["LDSTAT"]
  | .config => ["LDCFG"]
  | .setpoint _ => ["DECSP", "ENCSP"]
  | .hyst => ["LDHYST", "ENCHY"]
  | .id => ["LDID"]
  | .reset | .reserved => []

/-- Parameter `REGADDR` (R6, R33): a class's addresses, first to last. -/
abbrev RegAddr := RegClass → List Byte

/-- The values R33 lists (PRESUMED: general knowledge, G2; log entry 12). A setpoint has its most significant byte first. -/
def regAddrGeneral : RegAddr
  | .tempMsb => [0x00]
  | .tempLsb => [0x01]
  | .status => [0x02]
  | .config => [0x03]
  | .setpoint .high => [0x04, 0x05]
  | .setpoint .low => [0x06, 0x07]
  | .setpoint .crit => [0x08, 0x09]
  | .hyst => [0x0A]
  | .id => [0x0B]
  | .reset => [0x2F]
  | .reserved => (List.range 35).map fun k => BitVec.ofNat 8 (0x0C + k)

end Sys2Proof.Machine
end

