-- ==== Sys2Proof/Machine/Driver.lean ====
section
/-! DEFINITION. The host's side as data: what each driver operation of the source does on the bus and which commands it
presents (20_memory.md R41 to R45), and its error kinds (60_exceptions.md R131 to R133). It is the host's, outside the
block (R4): no step reads it. The bus's replies are arguments, since the sensor is not modelled (log entry 13). -/

namespace Sys2Proof.Machine

/-- One access of the host to the bus, with the reply of a read (R41). -/
inductive BusAccess where
  /-- `BusPrime()`: the address pointer set to register 0x00 (R42). -/
  | prime
  | read8 (r : RegClass) (reply : Byte)
  /-- A word read; the reply is a transport word. -/
  | read16 (r : RegClass) (reply : Word)
  /-- A byte written to a register; the primitive is not in the source (N6). -/
  | write8 (r : RegClass) (b : Byte)
  /-- A word write; it takes a transport word. -/
  | write16 (r : RegClass) (t : Word)
  /-- The software-reset command written; value and primitive are not in the source (N4). -/
  | resetWrite
  /-- A wait of at least so many milliseconds (R151). -/
  | settle (atLeastMs : Nat)
deriving DecidableEq, Repr

/-- A step of the host: a bus access, or a command presented to the block. -/
inductive HostStep where
  | bus (a : BusAccess)
  | cmd (i : Instr)
deriving DecidableEq, Repr

/-- The kinds of error of the source's driver (R131 to R133). -/
inductive DriverError where
  | configError
  | transportError
  | rangeError
  | nonIntegerError
deriving DecidableEq, Repr

/-- The reading operations of R43 with the bus's replies. -/
inductive DriverRead where
  | adcReady (status : Byte)
  | readTemperature (cfg msb lsb : Byte)
  | readAlarmFlags (t : Word)
  | readStatus (status : Byte)
  | readConfiguration (cfg : Byte)
  | readSetpoint (k : SetpointKind) (t : Word)
  | readHysteresis (b : Byte)
  | readDeviceId (b : Byte)
  | reset (readback : Byte)
deriving DecidableEq, Repr

/-- A byte read from a register and the command that takes it. -/
def readByteThen (r : RegClass) (reply : Byte) (i : Instr) : List HostStep :=
  [.bus (.read8 r reply), .cmd i]

/-- The host's steps of a reading operation (R43, R44): one priming at its start (R42, C4, N14). -/
def DriverRead.steps : DriverRead → List HostStep
  | .adcReady b => .bus .prime :: readByteThen .status b (.ldstat b)
  | .readTemperature c m l =>
    .bus .prime :: readByteThen .config c (.ldcfg c) ++ readByteThen .tempMsb m (.ldtmsb m)
      ++ readByteThen .tempLsb l (.ldtlsb l) ++ [.cmd .dect]
  | .readAlarmFlags t => [.bus .prime, .bus (.read16 .tempMsb t), .cmd (.ldalrm t)]
  | .readStatus b => .bus .prime :: readByteThen .status b (.ldstat b)
  | .readConfiguration b => .bus .prime :: readByteThen .config b (.ldcfg b)
  | .readSetpoint k t => [.bus .prime, .bus (.read16 (.setpoint k) t), .cmd (.decsp t)]
  | .readHysteresis b => .bus .prime :: readByteThen .hyst b (.ldhyst b)
  | .readDeviceId b => .bus .prime :: readByteThen .id b (.ldid b)
  | .reset b => .bus .resetWrite :: .bus (.settle 100) :: .bus .prime :: readByteThen .config b (.ldcfg b)

/-- Column "result" of R43: the registers of the block the host reads when the operation is done. -/
def DriverRead.resultPorts : DriverRead → List OutPort
  | .adcReady _ => [.flag .rdy]
  | .readTemperature _ _ _ | .readSetpoint _ _ => [.val]
  | .readAlarmFlags _ => [.flag .alo, .flag .ahi, .flag .acr]
  | .readStatus _ | .readConfiguration _ | .readHysteresis _ => [.dout]
  | .readDeviceId _ => [.dout, .flag .idok]
  | .reset _ => [.flag .cfgz]

/-- The samples of the input ports that present a host's commands to the block, in order. -/
def presentedBy (steps : List HostStep) : List PortInput :=
  steps.filterMap fun
    | .cmd i => some (present (encode i))
    | .bus _ => none

/-- The source's kind for a code of the block; E_ILLCMD and E_EMPTY are faults of the host's sequencing and have none
(R133). -/
def DriverError.ofCode : ErrorCode → Option DriverError
  | .eRange => some .rangeError
  | .eNonint => some .nonIntegerError
  | .eNone | .eIllcmd | .eEmpty => none

/-- The writing operations of R43. -/
inductive DriverWrite where
  | writeConfiguration (b : Byte)
  | writeSetpoint (k : SetpointKind) (q : QWord)
  | writeHysteresis (q : QWord)
deriving DecidableEq, Repr

/-- The command a writing operation presents before it touches the bus (R43, R45). -/
def DriverWrite.command : DriverWrite → Option Instr
  | .writeConfiguration _ => none
  | .writeSetpoint _ q => some (.encsp q)
  | .writeHysteresis q => some (.enchy q)

/-- The bus accesses of a writing operation, decided on the block's outputs after its command: none at all unless
`ERR = 0` (R43, R45). -/
def DriverWrite.busAccesses (op : DriverWrite) (after : State) : List BusAccess :=
  match op with
  | .writeConfiguration b => [.write8 .config b]
  | .writeSetpoint k _ =>
    match after.err, after.tout with
    | .eNone, some t => [.write16 (.setpoint k) t]
    | _, _ => []
  | .writeHysteresis _ =>
    match after.err, after.dout with
    | .eNone, some w => [.write8 .hyst (w.setWidth 8)]
    | _, _ => []

/-- `open`: both parameters checked against their sets before any transport call (R131). -/
def driverOpen (busNumber : Nat) (deviceAddress : Byte) : Except DriverError (Nat × Byte) :=
  if busNumber ∈ [0, 1] ∧ deviceAddress ∈ [(0x48 : Byte), 0x49, 0x4A, 0x4B]
  then .ok (busNumber, deviceAddress) else .error .configError

end Sys2Proof.Machine
end

