-- ==== Sys2Proof/Machine/ReadWrite.lean ====
section
/-! DEFINITION. The read and write sets of the commands (10_state.md R28), as the rule's table has them. No meaning reads
this table; statements hold the meanings against it. -/

namespace Sys2Proof.Machine

/-- The eight fields of `FLAGS` as registers. -/
def flagRegs : List Reg :=
  [.flag .res, .flag .neg, .flag .idok, .flag .cfgz, .flag .rdy, .flag .acr, .flag .ahi, .flag .alo]

/-- Every value-or-empty register and field. -/
def allRegs : List Reg := [.tmsb, .tlsb, .dout, .tout, .val] ++ flagRegs

/-- Column "reads". -/
def readsOf : Instr → List Reg
  | .dect => [.tmsb, .tlsb, .flag .res]
  | .nop | .ldcfg _ | .ldstat _ | .ldtmsb _ | .ldtlsb _ | .ldalrm _ | .ldhyst _ | .ldid _
  | .decsp _ | .encsp _ | .enchy _ | .clr => []

/-- Column "writes on completion", `ERR` apart: the registers given a value. -/
def writesOf : Instr → List Reg
  | .nop => []
  | .ldcfg _ => [.flag .res, .flag .cfgz, .dout]
  | .ldstat _ => [.flag .rdy, .dout]
  | .ldtmsb _ => [.tmsb, .dout]
  | .ldtlsb _ => [.tlsb, .dout]
  | .ldalrm _ => [.flag .alo, .flag .ahi, .flag .acr, .dout]
  | .ldhyst _ => [.dout]
  | .ldid _ => [.flag .idok, .dout]
  | .dect => [.val, .flag .neg, .dout]
  | .decsp _ => [.val, .flag .neg, .dout]
  | .encsp _ => [.dout, .tout]
  | .enchy _ => [.dout]
  | .clr => []

/-- Column "writes on completion": the registers made empty. -/
def clearsOf : Instr → List Reg
  | .enchy _ => [.tout]
  | .clr => allRegs
  | .nop | .ldcfg _ | .ldstat _ | .ldtmsb _ | .ldtlsb _ | .ldalrm _ | .ldhyst _ | .ldid _
  | .dect | .decsp _ | .encsp _ => []

/-- Column "emptied on error"; the empty list where the command cannot raise. -/
def emptiedOnError : Instr → List Reg
  | .dect => [.val, .flag .neg, .dout]
  | .encsp _ | .enchy _ => [.dout, .tout]
  | .nop | .ldcfg _ | .ldstat _ | .ldtmsb _ | .ldtlsb _ | .ldalrm _ | .ldhyst _ | .ldid _
  | .decsp _ | .clr => []

end Sys2Proof.Machine
end

