-- ==== Sys2Proof/Safety.lean ====
section
/-! DEFINITION. What a sound state of the block is: the relations between its registers that the rules imply and every
step keeps. -/

namespace Sys2Proof.Machine

/-- A register word ENCSP can produce: magnitude at most 16000, at most 5120 under the sign bit (R86, R90). -/
def encodedSetpoint (w : Word) : Bool :=
  decide ((w &&& magMask).toNat ≤ if w.getLsbD 15 then 5120 else 16000)

/-- The registers agree with one another as the rules imply. -/
structure State.Inv (s : State) : Prop where
  /-- `VAL` is never 0x8000 (R18, R68). -/
  val_range : ∀ v, s.val = some v → v ≠ 0x8000
  /-- `VAL` and `NEG` are written and emptied together (R28). -/
  val_neg : s.val.isSome = s.flags.neg.isSome
  /-- A negative `VAL` has `NEG = 1`, a positive one `NEG = 0`; at zero `NEG` may be either (R71). -/
  neg_sign : ∀ v n, s.val = some v → s.flags.neg = some n →
    (v.toInt < 0 → n = true) ∧ (0 < v.toInt → n = false)
  /-- `RES` and `CFGZ` are written together; a configuration byte of zero has a resolution bit of zero (R96). -/
  res_cfgz : s.flags.res.isSome = s.flags.cfgz.isSome
  cfgz_res : s.flags.cfgz = some true → s.flags.res = some false
  /-- The alarm fields are written all three together (R100). -/
  alarms : s.flags.alo.isSome = s.flags.ahi.isSome ∧ s.flags.ahi.isSome = s.flags.acr.isSome
  /-- `TOUT` holds the swap of a word ENCSP can produce (R17, R86). -/
  tout_word : ∀ t, s.tout = some t → encodedSetpoint (swap16 t) = true

/-- An answer that is a next state. -/
def Answers (a : Answer) (p : State → Prop) : Prop := ∃ t, a = .next t ∧ p t

end Sys2Proof.Machine
end

