-- ==== Sys2Proof/Certificates/Slice0/Obligations.lean ====
section
/-! DEFINITION. The statements for the provers, one definition each, grouped as the spec's files are. In a next state
written as a record update, every field not named keeps its value: that is the command's frame. -/

open Sys2Proof Sys2Proof.Machine

/-! ## Command words (30_encoding.md) -/

/-- Every command, with every operand its field admits, is the command its word decodes to. -/
def Obligations.DecodeOfEncodeIsTheCommand : Prop :=
  ∀ i : Instr, decode (encode i) = some i

/-- A word that decodes is the word of its command: no bit of it is ignored (R58, R59). -/
def Obligations.EncodeOfDecodeIsTheWord : Prop :=
  ∀ (w : CommandWord) (i : Instr), decode w = some i → encode i = w

/-- R56: a word is the command of the one row of the table it fits, and of no row if illegal; the masks cover the opcode
and the must-be-zero bits, the match is the opcode shifted by 32. -/
def Obligations.DecodeFollowsTheOpcodeTable : Prop :=
  (∀ w : CommandWord, ∀ r ∈ opcodeTable, r.fits w = true → (decode w).map Instr.mnemonic = some r.mnemonic) ∧
  (∀ (w : CommandWord) (i : Instr), decode w = some i → ∃ r ∈ opcodeTable, r.fits w = true) ∧
  (∀ w : CommandWord, ∀ r ∈ opcodeTable, ∀ r' ∈ opcodeTable, r.fits w = true → r'.fits w = true → r = r') ∧
  (∀ r ∈ opcodeTable, ∃ (op : Nat) (f : Format), formatOfOpcode op = some f ∧
    r.pattern.toNat = op * 2 ^ 32 ∧ r.mask.toNat = 2 ^ 36 - 2 ^ f.operandBits)

/-- The words that decode are exactly the well-formed ones (R57, R58). -/
def Obligations.WellFormedWordsAreThoseThatDecode : Prop :=
  ∀ w : CommandWord, (decode w).isSome = wordWellFormed w

/-- R57: a reserved opcode, whatever the argument, sets `ERR` to 1 and changes nothing else. -/
def Obligations.ReservedOpcodeRaisesIllegalCommand : Prop :=
  ∀ (s : State) (w : CommandWord) (rest : List PortInput), s.inputs = present w :: rest →
    (w.toNat / 2 ^ 32 = 0xC ∨ w.toNat / 2 ^ 32 = 0xD ∨ w.toNat / 2 ^ 32 = 0xE) →
    step s = .next { s with inputs := rest, err := .eIllcmd }

/-- R58: a defined opcode with a nonzero must-be-zero bit is illegal in the same way. -/
def Obligations.NonzeroMustBeZeroBitRaisesIllegalCommand : Prop :=
  ∀ (s : State) (w : CommandWord) (rest : List PortInput) (f : Format), s.inputs = present w :: rest →
    formatOfOpcode (w.toNat / 2 ^ 32) = some f → 2 ^ f.operandBits ≤ w.toNat % 2 ^ 32 →
    step s = .next { s with inputs := rest, err := .eIllcmd }

/-- Words written out from the encodings of R60 and 95_test_vectors.md decode to the commands they stand for. -/
def Obligations.WordsFromTheSpecDecode : Prop :=
  decode 0x000000000 = some .nop ∧ decode 0x100000080 = some (.ldcfg 0x80) ∧
  decode 0x500008D0C = some (.ldalrm 0x8D0C) ∧ decode 0x800000000 = some .dect ∧
  decode 0x90000803E = some (.decsp 0x803E) ∧ decode 0xA007D0000 = some (.encsp 0x007D0000) ∧
  decode 0xB00038000 = some (.enchy 0x00038000) ∧ decode 0x100000180 = none

/-! ## The step (10_state.md R10, R11; 70_reset_and_hazards.md R140) -/

/-- A presented word that decodes runs its command; the sample is taken off the list, and nothing else is added. -/
def Obligations.StepRunsTheDecodedCommand : Prop :=
  ∀ (s : State) (p : PortInput) (rest : List PortInput) (i : Instr), s.inputs = p :: rest →
    p.rst = false → p.cmdValid = true → decode p.cmd = some i →
    step s = exec i { s with inputs := rest }

/-- Where nothing is presented, in a sample or because no sample is left, the registers keep their values (the model's
choice, log entries 1 and 3). -/
def Obligations.StepWithNothingPresentedKeepsTheRegisters : Prop :=
  (∀ s : State, s.inputs = [] → step s = .next s) ∧
  (∀ (s : State) (p : PortInput) (rest : List PortInput), s.inputs = p :: rest → p.rst = false →
    p.cmdValid = false → step s = .next { s with inputs := rest })

/-- R27: after reset, after `rst` whatever else is presented, and after CLR, every register and field is empty, every valid
bit is 0 and `ERR = 0`. -/
def Obligations.ResetAndClrEmptyEveryRegister : Prop :=
  ((∀ r : Reg, State.reset.get r = none) ∧ errPort State.reset = 0 ∧ flagsV State.reset = 0 ∧
    doutV State.reset = false ∧ toutV State.reset = false ∧ valV State.reset = false) ∧
  (∀ (s : State) (p : PortInput) (rest : List PortInput), s.inputs = p :: rest → p.rst = true →
    Answers (step s) fun t => (∀ r : Reg, t.get r = none) ∧ errPort t = 0 ∧ flagsV t = 0 ∧
      doutV t = false ∧ toutV t = false ∧ valV t = false) ∧
  (∀ s : State,
    Answers (exec .clr s) fun t => (∀ r : Reg, t.get r = none) ∧ errPort t = 0 ∧ flagsV t = 0 ∧
      doutV t = false ∧ toutV t = false ∧ valV t = false)

/-- R10: the step is total. It answers a next state in every state, for every word presented. -/
def Obligations.EveryStepAnswersANextState : Prop :=
  ∀ s : State, ∃ t : State, step s = .next t

/-- A step takes one sample and never changes the parameters (R10, R26). -/
def Obligations.StepTakesOneSampleAndKeepsTheParameters : Prop :=
  ∀ s t : State, step s = .next t → t.inputs = s.inputs.tail ∧ t.params = s.params

/-- A step's effect does not depend on what the host presents later (R10, R48). -/
def Obligations.LaterSamplesDoNotAffectAStep : Prop :=
  ∀ (s t : State) (p : PortInput) (rest rest' : List PortInput),
    step { s with inputs := p :: rest } = .next t →
    step { s with inputs := p :: rest' } = .next { t with inputs := rest' }

/-! ## Read and write sets (10_state.md R28) -/

/-- On completion a command gives a value to the registers R28 lists, empties those it lists as emptied, and changes no
other; on an error it empties its "emptied on error" list and changes no other; a command with no such list cannot
raise. -/
def Obligations.CommandsWriteExactlyTheirWriteSets : Prop :=
  (∀ s : State, exec .nop s = .next s) ∧
  ∀ (i : Instr) (s t : State), i ≠ .nop → exec i s = .next t →
    (t.err = .eNone →
      (∀ r ∈ writesOf i, (t.get r).isSome = true) ∧ (∀ r ∈ clearsOf i, t.get r = none) ∧
      (∀ r : Reg, r ∉ writesOf i → r ∉ clearsOf i → t.get r = s.get r)) ∧
    (t.err ≠ .eNone →
      (∀ r ∈ emptiedOnError i, t.get r = none) ∧ (∀ r : Reg, r ∉ emptiedOnError i → t.get r = s.get r)) ∧
    (emptiedOnError i = [] → t.err = .eNone)

/-- What a command writes depends on its operand, on the registers R28 says it reads and on the parameters, and on
nothing else in the state. -/
def Obligations.CommandsReadOnlyTheirReadSets : Prop :=
  ∀ (i : Instr) (s u t t' : State), i ≠ .nop → (∀ r ∈ readsOf i, s.get r = u.get r) → s.params = u.params →
    exec i s = .next t → exec i u = .next t' →
    t.err = t'.err ∧ ∀ r ∈ writesOf i ++ clearsOf i ++ emptiedOnError i, t.get r = t'.get r

/-! ## Control (43_control.md) -/

/-- R115: NOP changes nothing, and 0x000000000 is its one word. -/
def Obligations.NopChangesNothing : Prop :=
  (∀ s : State, exec .nop s = .next s) ∧ (∀ w : CommandWord, decode w = some .nop ↔ w = 0x000000000)

/-- R116: CLR empties all thirteen registers and fields and sets `ERR` to 0; 0xF00000000 is its one word; DECT after it
raises E_EMPTY. -/
def Obligations.ClrReturnsTheBlockToReset : Prop :=
  (∀ s : State, exec .clr s =
    .next { tmsb := none, tlsb := none, dout := none, tout := none, val := none,
            flags := { res := none, neg := none, idok := none, cfgz := none,
                       rdy := none, acr := none, ahi := none, alo := none },
            err := .eNone, inputs := s.inputs, params := s.params }) ∧
  (∀ w : CommandWord, decode w = some .clr ↔ w = 0xF00000000) ∧
  (∀ s t : State, exec .clr s = .next t → Answers (exec .dect t) fun u => errPort u = 2)

/-! ## The field multiplexer (42_field_mux.md) -/

/-- R96. -/
def Obligations.LdcfgRoutesTheConfigurationByte : Prop :=
  ∀ (b : Byte) (s : State), decode (0x1#4 ++ (0#24 ++ b)) = some (.ldcfg b) ∧
    exec (.ldcfg b) s =
      .next { s with
        flags := { s.flags with res := some (decide (128 ≤ b.toNat)), cfgz := some (decide (b.toNat = 0)) }
        dout := some (0#8 ++ b)
        err := .eNone }

/-- R97: `RDY` is 1 exactly while the status byte's bit 7 is 0. -/
def Obligations.LdstatRoutesTheStatusByte : Prop :=
  ∀ (b : Byte) (s : State), decode (0x2#4 ++ (0#24 ++ b)) = some (.ldstat b) ∧
    exec (.ldstat b) s =
      .next { s with
        flags := { s.flags with rdy := some (decide (b.toNat < 128)) }
        dout := some (0#8 ++ b)
        err := .eNone }

/-- R98. -/
def Obligations.LdtmsbLatchesTheByte : Prop :=
  ∀ (b : Byte) (s : State), decode (0x3#4 ++ (0#24 ++ b)) = some (.ldtmsb b) ∧
    exec (.ldtmsb b) s = .next { s with tmsb := some b, dout := some (0#8 ++ b), err := .eNone }

/-- R99. -/
def Obligations.LdtlsbLatchesTheByte : Prop :=
  ∀ (b : Byte) (s : State), decode (0x4#4 ++ (0#24 ++ b)) = some (.ldtlsb b) ∧
    exec (.ldtlsb b) s = .next { s with tlsb := some b, dout := some (0#8 ++ b), err := .eNone }

/-- R100: the flags are bits 8, 9, 10 of the transport word, and `DOUT` is that word with its bytes exchanged. -/
def Obligations.LdalrmExtractsTheAlarmBits : Prop :=
  ∀ (t : Word) (s : State), decode (0x5#4 ++ (0#16 ++ t)) = some (.ldalrm t) ∧
    exec (.ldalrm t) s =
      .next { s with
        flags := { s.flags with
          alo := some (t.getLsbD 8), ahi := some (t.getLsbD 9), acr := some (t.getLsbD 10) }
        dout := some (t.rotateLeft 8)
        err := .eNone }

/-- R101: no check and no mask. -/
def Obligations.LdhystPassesTheByte : Prop :=
  ∀ (b : Byte) (s : State), decode (0x6#4 ++ (0#24 ++ b)) = some (.ldhyst b) ∧
    exec (.ldhyst b) s = .next { s with dout := some (0#8 ++ b), err := .eNone }

/-- R102: a mismatch is `IDOK = 0`, no error. -/
def Obligations.LdidComparesTheIdentityByte : Prop :=
  ∀ (b : Byte) (s : State), decode (0x7#4 ++ (0#24 ++ b)) = some (.ldid b) ∧
    exec (.ldid b) s =
      .next { s with
        flags := { s.flags with idok := some (decide (b.toNat = 203)) }
        dout := some (0#8 ++ b)
        err := .eNone }

/-- Every byte command leaves its operand in `DOUT[7:0]` and zeros in `DOUT[15:8]` (R104). -/
def Obligations.ByteCommandsPassTheirOperandThrough : Prop :=
  ∀ (b : Byte) (s : State) (i : Instr),
    i ∈ [Instr.ldcfg b, .ldstat b, .ldtmsb b, .ldtlsb b, .ldhyst b, .ldid b] →
    Answers (exec i s) fun t => ∃ w, t.dout = some w ∧ w.extractLsb' 0 8 = b ∧ w.extractLsb' 8 8 = 0 ∧
      readPort t .dout = .ok b.toNat

/-- `LDALRM` on the swap of a temperature word extracts bits 0, 1, 2 of its LSB byte, and the ThirteenBit decode of the
word is that of the word with those three bits cleared (R103). -/
def Obligations.AlarmBitsAreTheBitsThirteenBitDecodeDrops : Prop :=
  ∀ (m l : Byte) (s : State),
    (Answers (exec (.ldalrm (swap16 (joinBytes m l))) s) fun t =>
      t.flags.alo = some (l.getLsbD 0) ∧ t.flags.ahi = some (l.getLsbD 1) ∧ t.flags.acr = some (l.getLsbD 2) ∧
      t.tmsb = s.tmsb ∧ t.tlsb = s.tlsb ∧ t.val = s.val) ∧
    val128 .thirteenBit (joinBytes m l) = val128 .thirteenBit (joinBytes m (l &&& 0xF8))

/-! ## The decoder (40_decode.md) -/

/-- R66. -/
def Obligations.Dec16IsSignMagnitudeAt128PerDegree : Prop :=
  (∀ w : Word, w.toNat < 32768 → dec16 w = (w.toNat : ℚ) / 128) ∧
  (∀ w : Word, 32768 ≤ w.toNat → dec16 w = -(((w.toNat : ℚ) - 32768) / 128)) ∧
  (∀ n : Int, -32767 ≤ n → n ≤ 32767 → ∃ w : Word, dec16 w = (n : ℚ) / 128)

/-- R67: the shift drops bits 2 to 0. -/
def Obligations.Dec13IsSignMagnitudeAt16PerDegree : Prop :=
  (∀ w : Word, w.toNat < 32768 → dec13 w = ((w.toNat / 8 : Nat) : ℚ) / 16) ∧
  (∀ w : Word, 32768 ≤ w.toNat → dec13 w = -((((w.toNat - 32768) / 8 : Nat) : ℚ) / 16)) ∧
  (∀ n : Int, -4095 ≤ n → n ≤ 4095 → ∃ w : Word, dec13 w = (n : ℚ) / 16)

/-- R68: `val128` is the exact decode of both resolutions in 1/128 degree, its 16-bit form always exists and is never
0x8000, and in ThirteenBit mode it is a multiple of 8. -/
def Obligations.Val128IsTheExactDecode : Prop :=
  ∀ (r : Resolution) (w : Word),
    (val128 r w : ℚ) / 128 = degreesOf r w ∧ -32767 ≤ val128 r w ∧ val128 r w ≤ 32767 ∧
    (tc16 (val128 r w)).toInt = val128 r w ∧ tc16 (val128 r w) ≠ 0x8000 ∧ val128 .thirteenBit w % 8 = 0

/-- R69: the mask comes before the shift; shifting first agrees where bit 15 is clear and is wrong on every word where it
is set. -/
def Obligations.MaskBeforeShift : Prop :=
  (∀ w : Word, counts .thirteenBit w = w.toNat % 32768 / 8) ∧
  (∀ w : Word, w.toNat < 32768 → counts .thirteenBit w = ((w >>> 3) &&& 0x7FFF).toNat) ∧
  (∀ w : Word, 32768 ≤ w.toNat → counts .thirteenBit w ≠ ((w >>> 3) &&& 0x7FFF).toNat)

/-- Flipping the sign bit negates the value; the SixteenBit value rises with the magnitude for sign 0 and falls for
sign 1; the ThirteenBit decode is the SixteenBit decode with bits 2 to 0 cleared (R74 (a) to (c)). -/
def Obligations.DecoderSignOrderAndTruncationLaws : Prop :=
  (∀ (r : Resolution) (w : Word), val128 r (w ^^^ 0x8000) = -val128 r w) ∧
  (∀ w w' : Word, w.getLsbD 15 = false → w'.getLsbD 15 = false →
    (w &&& 0x7FFF).toNat < (w' &&& 0x7FFF).toNat → val128 .sixteenBit w < val128 .sixteenBit w') ∧
  (∀ w w' : Word, w.getLsbD 15 = true → w'.getLsbD 15 = true →
    (w &&& 0x7FFF).toNat < (w' &&& 0x7FFF).toNat → val128 .sixteenBit w' < val128 .sixteenBit w) ∧
  (∀ w : Word, val128 .thirteenBit w = val128 .sixteenBit (w &&& 0xFFF8))

/-- The two decodes of one word differ by at most 7/128 degree, and by that where bits 2 to 0 are all ones (R74 (d)); two
words decode to one value only where R74 (e) says. -/
def Obligations.DecoderDistanceAndCollisionLaws : Prop :=
  (∀ w : Word, |dec16 w - dec13 w| ≤ 7 / 128) ∧
  (∀ w : Word, w.toNat % 8 = 7 → |dec16 w - dec13 w| = 7 / 128) ∧
  (∀ w w' : Word, w ≠ w' → val128 .sixteenBit w = val128 .sixteenBit w' →
    (w = 0x0000 ∧ w' = 0x8000) ∨ (w = 0x8000 ∧ w' = 0x0000)) ∧
  (∀ w w' : Word, val128 .thirteenBit w = val128 .thirteenBit w' →
    w.toNat / 8 = w'.toNat / 8 ∨ (counts .thirteenBit w = 0 ∧ counts .thirteenBit w' = 0))

/-- R72: DECT, for every value of the parameter `RES16_CFG7`, with its inputs present and with one missing. -/
def Obligations.DectDecodesTheLatchedReading : Prop :=
  decode 0x800000000 = some .dect ∧ (∀ w : CommandWord, decode w = some .dect → w = 0x800000000) ∧
  (∀ (s : State) (m l : Byte) (res : Bool), s.tmsb = some m → s.tlsb = some l → s.flags.res = some res →
    exec .dect s =
      .next { s with
        val := some (BitVec.ofInt 16
          (val128 (if res = s.params.res16Cfg7 then .sixteenBit else .thirteenBit) (m ++ l)))
        flags := { s.flags with neg := some (decide (128 ≤ m.toNat)) }
        dout := some (m ++ l)
        err := .eNone }) ∧
  (∀ s : State, s.tmsb = none ∨ s.tlsb = none ∨ s.flags.res = none →
    exec .dect s =
      .next { s with val := none, flags := { s.flags with neg := none }, dout := none, err := .eEmpty })

/-- R73: DECSP swaps, decodes at 1/128 degree whatever `RES` holds, and never raises. -/
def Obligations.DecspDecodesTheSwappedSetpoint : Prop :=
  ∀ (t : Word) (s : State), decode (0x9#4 ++ (0#16 ++ t)) = some (.decsp t) ∧
    exec (.decsp t) s =
      .next { s with
        val := some (BitVec.ofInt 16 (val128 .sixteenBit (t.rotateLeft 8)))
        flags := { s.flags with neg := some (t.getLsbD 7) }
        dout := some (t.rotateLeft 8)
        err := .eNone }

/-- R71: a word of sign 1 and counts 0 decodes to 0, and `NEG` keeps its sign bit. -/
def Obligations.NegativeZeroDecodesToZeroWithNegSet : Prop :=
  (∀ (s : State) (m l : Byte) (res : Bool), s.tmsb = some m → s.tlsb = some l → s.flags.res = some res →
    (m ++ l = (0x8000 : Word) ∨
      (res ≠ s.params.res16Cfg7 ∧ 0x8000 ≤ (m ++ l).toNat ∧ (m ++ l).toNat ≤ 0x8007)) →
    Answers (exec .dect s) fun t => t.val = some 0x0000 ∧ t.flags.neg = some true) ∧
  (∀ s : State, Answers (exec (.decsp 0x0080) s) fun t => t.val = some 0x0000 ∧ t.flags.neg = some true)

/-! ## The encoder (41_encode.md) -/

/-- R81: ENCSP raises E_RANGE exactly where the unrounded value lies below -40 or above 125 degrees. -/
def Obligations.SetpointRangeIsTestedOnTheUnroundedValue : Prop :=
  ∀ (q : QWord) (s : State), Answers (exec (.encsp q) s) fun t =>
    (t.err = .eRange ↔ (q.toInt : ℚ) / 65536 < -40 ∨ 125 < (q.toInt : ℚ) / 65536)

/-- R86, with R83's formula for the other value of `TIE`: ENCSP of a value in range packs the rounded magnitude under the
sign bit and puts it out in both byte orders; out of range it empties both outputs. -/
def Obligations.EncspPacksTheSetpoint : Prop :=
  (∀ q : QWord, decode (0xA#4 ++ q) = some (.encsp q)) ∧
  (∀ (q : QWord) (s : State) (m : Nat) (w : Word), -2621440 ≤ q.toInt → q.toInt ≤ 8192000 →
    (m : Int) = (match s.params.tie with
      | .halfAwayFromZero => (|q.toInt| + 256) / 512
      | .halfToEven =>
        if |q.toInt| % 512 > 256 ∨ (|q.toInt| % 512 = 256 ∧ |q.toInt| / 512 % 2 = 1)
        then |q.toInt| / 512 + 1 else |q.toInt| / 512) →
    w.toNat = (if q.toInt < 0 then 0x8000 + m else m) →
    m ≤ 16000 ∧
    exec (.encsp q) s = .next { s with dout := some w, tout := some (w.rotateLeft 8), err := .eNone }) ∧
  (∀ (q : QWord) (s : State), q.toInt < -2621440 ∨ 8192000 < q.toInt →
    exec (.encsp q) s = .next { s with dout := none, tout := none, err := .eRange })

/-- For every operand in range ENCSP puts out `enc128` of the operand's exact value in degrees, under either value of
`TIE` (R82, R86). -/
def Obligations.EncspRefinesEnc128 : Prop :=
  ∀ (q : QWord) (s : State), -40 ≤ degreesOfQ q → degreesOfQ q ≤ 125 →
    Answers (exec (.encsp q) s) fun t =>
      t.dout = enc128 s.params.tie (degreesOfQ q) ∧ t.dout.isSome = true ∧ t.tout = t.dout.map swap16 ∧
      t.err = .eNone

/-- R83: `round` is the nearest integer; at an exact half it is the parameter's choice; it is symmetric in the sign, and
its two integer formulas on Q-operands are it. -/
def Obligations.RoundIsNearestWithTheTieRule : Prop :=
  (∀ (tie : Tie) (x : ℚ), 0 ≤ x → |(roundTie tie x : ℚ) - x| ≤ 1 / 2) ∧
  (∀ (x : ℚ) (f : Nat), x = f + 1 / 2 →
    roundTie .halfAwayFromZero x = f + 1 ∧ roundTie .halfToEven x = (if f % 2 = 0 then f else f + 1)) ∧
  (∀ (tie : Tie) (v : ℚ) (w : Word), 0 < v → enc128 tie v = some w → enc128 tie (-v) = some (w ||| 0x8000)) ∧
  (∀ (tie : Tie) (a : Nat), setpointMagnitude tie a = roundTie tie ((a : ℚ) / 512)) ∧
  (∀ a : Nat, setpointMagnitude .halfAwayFromZero a = (a + 256) / 512)

/-- R84: the sign bit follows the sign of the input, for every operand in range: a tiny negative encodes as 0x8000, which
decodes to 0, and zero encodes as 0x0000. -/
def Obligations.TinyNegativeSetpointEncodesAsNegativeZero : Prop :=
  ∀ (q : QWord) (s : State),
    ((-256 < q.toInt ∧ q.toInt < 0) ∨ (q.toInt = -256 ∧ s.params.tie = .halfToEven) →
      Answers (exec (.encsp q) s) fun t => t.dout = some 0x8000 ∧ t.tout = some 0x0080) ∧
    (q.toInt = 0 → Answers (exec (.encsp q) s) fun t => t.dout = some 0x0000 ∧ t.tout = some 0x0000) ∧
    (-2621440 ≤ q.toInt → q.toInt ≤ 8192000 →
      Answers (exec (.encsp q) s) fun t => ∃ w, t.dout = some w ∧ (w.getLsbD 15 = true ↔ q.toInt < 0)) ∧
    dec16 0x8000 = 0

/-- `enc128` inverts `dec16` on every word but negative zero, which comes back as zero, under either value of `TIE`
(R87 (a)). -/
def Obligations.Enc128InvertsDec16 : Prop :=
  ∀ (tie : Tie) (w : Word), enc128 tie (dec16 w) = some (if w = 0x8000 then 0x0000 else w)

/-- `enc128` is defined wherever `|v * 128| <= 32767`; `dec16` of it is `v` to within 1/256 degree, and `v` itself where
`v * 128` is an integer (R87 (b)). -/
def Obligations.Dec16InvertsEnc128ToWithinHalfACount : Prop :=
  ∀ (tie : Tie) (v : ℚ),
    (|v * 128| ≤ 32767 → (enc128 tie v).isSome = true) ∧
    (∀ w : Word, enc128 tie v = some w → |dec16 w - v| ≤ 1 / 256 ∧ (∀ n : Int, v * 128 = n → dec16 w = v))

/-- A setpoint in range that is a whole number of 1/128 degree, encoded and then read back from `TOUT`, is decoded to
itself (R87 (c)). -/
def Obligations.SetpointWrittenThenReadBackIsExact : Prop :=
  ∀ (q : QWord) (s : State) (n : Int), q.toInt = n * 512 → -5120 ≤ n → n ≤ 16000 →
    ∃ t tw u, exec (.encsp q) s = .next t ∧ t.tout = some tw ∧ exec (.decsp tw) t = .next u ∧
      u.val = some (BitVec.ofInt 16 n) ∧ u.err = .eNone

/-- A setpoint read and encoded again gives its own word exactly inside the setpoint range; negative zero gives zero;
every other word is refused (R87 (d)). -/
def Obligations.SetpointReadThenWrittenBack : Prop :=
  ∀ (tw : Word) (s u x : State) (v : Word), exec (.decsp tw) s = .next u → u.val = some v →
    exec (.encsp (tc32 (v.toInt * 512))) u = .next x →
    ((swap16 tw).toNat ≤ 0x3E80 ∨ (0x8001 ≤ (swap16 tw).toNat ∧ (swap16 tw).toNat ≤ 0x9400) →
      x.dout = some (swap16 tw) ∧ x.tout = some tw) ∧
    (swap16 tw = 0x8000 → x.dout = some 0x0000) ∧
    ((0x3E80 < (swap16 tw).toNat ∧ (swap16 tw).toNat < 0x8000) ∨ 0x9400 < (swap16 tw).toNat →
      x.err = .eRange ∧ x.dout = none)

/-- R88 and R89, for every value of `HYST_CHECK_ORDER`: ENCHY of a whole number of degrees from 0 to 15 puts its byte out
and empties `TOUT`; a value out of range, or not whole, raises, and where both hold the order decides. -/
def Obligations.EnchyValidatesAndPacksTheHysteresis : Prop :=
  (∀ q : QWord, decode (0xB#4 ++ q) = some (.enchy q)) ∧
  (∀ (q : QWord) (s : State) (h : Nat), h ≤ 15 → q.toInt = h * 65536 →
    exec (.enchy q) s = .next { s with dout := some (BitVec.ofNat 16 h), tout := none, err := .eNone }) ∧
  (∀ (q : QWord) (s : State), q.toInt < 0 ∨ 983040 < q.toInt →
    (q.toInt % 65536 = 0 ∨ s.params.hystCheckOrder = .rangeFirst) →
    exec (.enchy q) s = .next { s with dout := none, tout := none, err := .eRange }) ∧
  (∀ (q : QWord) (s : State), q.toInt % 65536 ≠ 0 →
    ((0 ≤ q.toInt ∧ q.toInt ≤ 983040) ∨ s.params.hystCheckOrder = .wholeFirst) →
    exec (.enchy q) s = .next { s with dout := none, tout := none, err := .eNonint })

/-! ## Errors (60_exceptions.md) and the outputs (10_state.md) -/

/-- Which words end with which code: E_ILLCMD exactly the words that are no command, E_EMPTY exactly DECT with an input
missing, E_RANGE exactly an encode of a value out of its range, E_NONINT exactly ENCHY of a value that is not whole; where
a hysteresis value is both, the parameter `HYST_CHECK_ORDER` decides; codes 5 to 7 never (R120, R122 to R126). -/
def Obligations.EachErrorCodeHasItsCauses : Prop :=
  ∀ (s t : State) (w : CommandWord) (rest : List PortInput), s.inputs = present w :: rest →
    decode w ≠ some .nop → step s = .next t →
    (errPort t = 1 ↔ decode w = none) ∧
    (errPort t = 2 ↔ decode w = some .dect ∧ (s.tmsb = none ∨ s.tlsb = none ∨ s.flags.res = none)) ∧
    (errPort t = 3 ↔ ∃ q,
      (decode w = some (.encsp q) ∧ (q.toInt < -2621440 ∨ 8192000 < q.toInt)) ∨
      (decode w = some (.enchy q) ∧ (q.toInt < 0 ∨ 983040 < q.toInt) ∧
        (q.toInt % 65536 = 0 ∨ s.params.hystCheckOrder = .rangeFirst))) ∧
    (errPort t = 4 ↔ ∃ q, decode w = some (.enchy q) ∧ q.toInt % 65536 ≠ 0 ∧
      ((0 ≤ q.toInt ∧ q.toInt ≤ 983040) ∨ s.params.hystCheckOrder = .wholeFirst)) ∧
    (errPort t).toNat ≤ 4

/-- An error leaves nothing behind but its code and its emptied registers: the next command other than NOP does exactly
what it would have done with any other code in `ERR` (R20, R127). -/
def Obligations.ErrorCodeIsNotSticky : Prop :=
  ∀ (i : Instr) (s : State) (e : ErrorCode), i ≠ .nop → exec i { s with err := e } = exec i s

/-- The latches and the resolution bit change only by their own load, CLR or reset: torn reads and a stale resolution are
kept, not hidden (R15, R145, R146). -/
def Obligations.LatchesAndResolutionChangeOnlyByTheirLoads : Prop :=
  ∀ s t : State, step s = .next t →
    (t.tmsb ≠ s.tmsb → ∃ p rest, s.inputs = p :: rest ∧ (p.rst = true ∨ (p.cmdValid = true ∧
      (decode p.cmd = some .clr ∨ ∃ b, decode p.cmd = some (.ldtmsb b))))) ∧
    (t.tlsb ≠ s.tlsb → ∃ p rest, s.inputs = p :: rest ∧ (p.rst = true ∨ (p.cmdValid = true ∧
      (decode p.cmd = some .clr ∨ ∃ b, decode p.cmd = some (.ldtlsb b))))) ∧
    (t.flags.res ≠ s.flags.res → ∃ p rest, s.inputs = p :: rest ∧ (p.rst = true ∨ (p.cmdValid = true ∧
      (decode p.cmd = some .clr ∨ ∃ b, decode p.cmd = some (.ldcfg b)))))

/-- `TOUT` outlives every load and decode and `VAL` every load and encode, through illegal words too (R17, R18, R149). -/
def Obligations.EncodedAndDecodedValuesPersist : Prop :=
  ∀ s t : State, step s = .next t →
    (t.tout ≠ s.tout → ∃ p rest, s.inputs = p :: rest ∧ (p.rst = true ∨ (p.cmdValid = true ∧
      (decode p.cmd = some .clr ∨ ∃ q, decode p.cmd = some (.encsp q) ∨ decode p.cmd = some (.enchy q))))) ∧
    (t.val ≠ s.val → ∃ p rest, s.inputs = p :: rest ∧ (p.rst = true ∨ (p.cmdValid = true ∧
      (decode p.cmd = some .clr ∨ decode p.cmd = some .dect ∨ ∃ tw, decode p.cmd = some (.decsp tw)))))

/-- After a failed encode the host makes no bus access and finds no word on either output; after a successful setpoint
encode it writes the swap of the register word (R45, R121, R133). The driver operations as data, and the fault a read of
an empty output answers, are the model's choice (log entries 13 and 9). -/
def Obligations.RejectedValuesNeverReachTheBus : Prop :=
  ∀ (op : DriverWrite) (i : Instr) (s t : State), op.command = some i → exec i s = .next t →
    (t.err ≠ .eNone → op.busAccesses t = [] ∧ readPort t .dout = .error (.emptyOutput .dout) ∧
      readPort t .tout = .error (.emptyOutput .tout) ∧ (DriverError.ofCode t.err).isSome = true) ∧
    (t.err = .eNone → DriverError.ofCode t.err = none ∧
      ((∃ k q w, op = .writeSetpoint k q ∧ t.dout = some w ∧
          op.busAccesses t = [.write16 (.setpoint k) (swap16 w)]) ∨
       (∃ q w, op = .writeHysteresis q ∧ t.dout = some (zext16 w) ∧ w.toNat ≤ 15 ∧
          op.busAccesses t = [.write8 .hyst w])))

/-- Each reading operation of the driver, whatever the bus replied and whatever state the block was in: the steps that take
the commands it presents leave the operation's result in the block, with no error, and take no other sample. The
temperature is that of the two bytes at the resolution of the configuration byte read in the same operation (R43, R44).
Each port R43 names for the result can be read. The driver operations as data are the model's choice (log entry 13). -/
def Obligations.DriverReadOperationsLeaveTheirResults : Prop :=
  ∀ (op : DriverRead) (s : State) (rest : List PortInput), s.inputs = presentedBy op.steps ++ rest →
    Answers (Sys2Proof.core.run (presentedBy op.steps).length s) fun t =>
      t.inputs = rest ∧ t.err = .eNone ∧ t.tout = s.tout ∧
      (∀ p ∈ op.resultPorts, ∃ x, readPort t p = .ok x) ∧
      (match op with
        | .adcReady b => t.flags.rdy = some (decide (b.toNat < 128))
        | .readTemperature c m l =>
          t.val = some (tc16 (val128
            (if c.getLsbD 7 = s.params.res16Cfg7 then .sixteenBit else .thirteenBit) (joinBytes m l)))
        | .readAlarmFlags w =>
          t.flags.alo = some (w.getLsbD 8) ∧ t.flags.ahi = some (w.getLsbD 9) ∧ t.flags.acr = some (w.getLsbD 10)
        | .readStatus b | .readConfiguration b | .readHysteresis b => t.dout = some (0#8 ++ b)
        | .readDeviceId b => t.dout = some (0#8 ++ b) ∧ t.flags.idok = some (decide (b.toNat = 203))
        | .readSetpoint _ w => t.val = some (tc16 (val128 .sixteenBit (w.rotateLeft 8)))
        | .reset b => t.flags.cfgz = some (decide (b.toNat = 0)))

/-- The byte swap is a rotation by eight bits: it exchanges the two bytes of a joined word, keeping every bit's place in
its byte, and takes the check value of R35 to its transport word. -/
def Obligations.ByteSwapExchangesTheTwoBytes : Prop :=
  (∀ x : Word, swap16 x = x.rotateLeft 8) ∧ (∀ m l : Byte, swap16 (joinBytes m l) = joinBytes l m) ∧
  swap16 0x3E80 = 0x803E

/-- The output ports are the registers (R11): the host reads on each exactly the value its register holds, and the valid
bits say which are non-empty; each field of `FLAGS` stands at its bit (R19), and port `flags` has a value exactly where all
eight fields have; `err` is the number of the code (R120). That a read of an empty output answers a fault is the model's
choice (log entry 9). -/
def Obligations.PortsShowTheRegisters : Prop :=
  (∀ (s : State) (x : Nat),
    (readPort s .dout = .ok x ↔ ∃ w, s.dout = some w ∧ x = w.toNat) ∧
    (readPort s .tout = .ok x ↔ ∃ w, s.tout = some w ∧ x = w.toNat) ∧
    (readPort s .val = .ok x ↔ ∃ w, s.val = some w ∧ x = w.toNat) ∧
    (∀ f : FlagName, readPort s (.flag f) = .ok x ↔ ∃ b, s.flags.get f = some b ∧ x = if b then 1 else 0)) ∧
  (∀ (s : State) (p : OutPort) (e : Fault), readPort s p = .error e → e = .emptyOutput p) ∧
  (∀ s : State, doutV s = s.dout.isSome ∧ toutV s = s.tout.isSome ∧ valV s = s.val.isSome) ∧
  (∀ (s : State) (f : FlagName), (flagsV s).getLsbD f.bit = (s.flags.get f).isSome) ∧
  (∀ (s : State) (v : BitVec 8), flagsPort s = some v ↔ ∀ f : FlagName, s.flags.get f = some (v.getLsbD f.bit)) ∧
  (∀ s : State, (flagsPort s).isSome = true ↔ ∀ f : FlagName, (s.flags.get f).isSome = true) ∧
  [FlagName.res, .neg, .idok, .cfgz, .rdy, .acr, .ahi, .alo].map FlagName.bit = [7, 6, 5, 4, 3, 2, 1, 0] ∧
  (∀ s : State, errPort s = match s.err with
    | .eNone => 0 | .eIllcmd => 1 | .eEmpty => 2 | .eRange => 3 | .eNonint => 4)

/-! ## The invariant -/

/-- The state right after reset is sound. -/
def Obligations.ResetStateIsSound : Prop := State.Inv State.reset

/-- Every step from a sound state, reachable or not, leads to a sound state: `VAL` is never 0x8000, `NEG` stands with `VAL`
and carries its sign, the fields of one source register stand together, `TOUT` holds only words ENCSP can produce. -/
def Obligations.EveryStepKeepsTheStateSound : Prop :=
  ∀ s t : State, State.Inv s → step s = .next t → State.Inv t
end

