-- ==== Sys2Proof/Laws/Codec.lean ====
section
/-! SUPPORT. Bit-level facts about the operand forms and the codec as statements about numbers: how a mask, a swap, a sign
bit and a rounding shift read as arithmetic. -/

namespace Sys2Proof.Machine

theorem getLsbD_15_eq (w : Word) : w.getLsbD 15 = decide (32768 ≤ w.toNat) := by
  have h := BitVec.msb_eq_decide (x := w)
  simpa [BitVec.msb, BitVec.getMsbD] using h

/-- The magnitude mask takes the sign bit off. -/
theorem toNat_and_magMask (w : Word) : (w &&& magMask).toNat = w.toNat % 32768 := by
  have : (w &&& magMask).toNat = w.toNat &&& (2 ^ 15 - 1) := by simp [magMask]
  rw [this, Nat.and_two_pow_sub_one_eq_mod]

theorem toNat_sub_sign {w : Word} (h : w.getLsbD 15 = true) : w.toNat % 32768 = w.toNat - 32768 := by
  rw [getLsbD_15_eq] at h
  have := w.isLt
  simp only [decide_eq_true_eq] at h
  omega

theorem toNat_lt_of_sign_clear {w : Word} (h : w.getLsbD 15 = false) : w.toNat < 32768 := by
  rw [getLsbD_15_eq] at h
  simpa using h

theorem counts_sixteenBit (w : Word) : counts .sixteenBit w = w.toNat % 32768 := toNat_and_magMask w

theorem counts_thirteenBit (w : Word) : counts .thirteenBit w = w.toNat % 32768 / 8 := by
  show ((w &&& magMask) >>> 3).toNat = _
  rw [BitVec.toNat_ushiftRight, toNat_and_magMask, Nat.shiftRight_eq_div_pow]

theorem magnitude128_sixteenBit (w : Word) : magnitude128 .sixteenBit w = w.toNat % 32768 := toNat_and_magMask w

/-- The mask 0x7FF8 clears the sign and the three alarm bits. -/
theorem magnitude128_thirteenBit (w : Word) :
    magnitude128 .thirteenBit w = w.toNat % 32768 / 8 * 8 := by
  have h : w &&& (0x7FF8 : Word) = ((w &&& magMask) >>> 3) <<< 3 := by
    apply BitVec.eq_of_getLsbD_eq
    intro i hi
    have : i = 0 ∨ i = 1 ∨ i = 2 ∨ i = 3 ∨ i = 4 ∨ i = 5 ∨ i = 6 ∨ i = 7 ∨ i = 8 ∨ i = 9 ∨ i = 10 ∨
      i = 11 ∨ i = 12 ∨ i = 13 ∨ i = 14 ∨ i = 15 := by omega
    rcases this with h | h | h | h | h | h | h | h | h | h | h | h | h | h | h | h <;> subst h <;>
      simp [magMask]
  have hb : w.toNat % 32768 / 8 * 8 < 65536 := by omega
  have hn : ((w &&& magMask) >>> 3).toNat = w.toNat % 32768 / 8 := by
    rw [BitVec.toNat_ushiftRight, toNat_and_magMask, Nat.shiftRight_eq_div_pow]
  show (w &&& (0x7FF8 : Word)).toNat = _
  rw [h, BitVec.toNat_shiftLeft, hn, Nat.shiftLeft_eq]
  exact Nat.mod_eq_of_lt hb

theorem magnitude128_le (r : Resolution) (w : Word) : magnitude128 r w ≤ 32767 := by
  cases r
  · rw [magnitude128_thirteenBit]; omega
  · rw [magnitude128_sixteenBit]; omega

theorem swap16_toNat (x : Word) : (swap16 x).toNat = x.toNat % 256 * 256 + x.toNat / 256 := by
  have hx := x.isLt
  have hl : (x.extractLsb' 0 8).toNat = x.toNat % 256 := by simp
  have hh : (x.extractLsb' 8 8).toNat = x.toNat / 256 := by
    simp only [BitVec.extractLsb'_toNat, Nat.shiftRight_eq_div_pow]; omega
  show (x.extractLsb' 0 8 ++ x.extractLsb' 8 8).toNat = _
  rw [BitVec.toNat_append, hl, hh, ← Nat.shiftLeft_add_eq_or_of_lt (by omega), Nat.shiftLeft_eq]

/-- Swapping twice gives the word back (R7). -/
theorem swap16_swap16 (x : Word) : swap16 (swap16 x) = x := by
  apply BitVec.eq_of_toNat_eq
  have := x.isLt
  rw [swap16_toNat, swap16_toNat]
  omega

/-- The joined bytes of a temperature reading as a number (R36). -/
theorem joinBytes_toNat (m l : Byte) : (joinBytes m l).toNat = m.toNat * 256 + l.toNat := by
  show (m ++ l).toNat = _
  rw [BitVec.toNat_append, ← Nat.shiftLeft_add_eq_or_of_lt l.isLt, Nat.shiftLeft_eq]

theorem setpointOutOfRange_eq (s : Int) :
    setpointOutOfRange s = decide (s < -2621440 ∨ 8192000 < s) := rfl

theorem hystOutOfRange_eq (s : Int) : hystOutOfRange s = decide (s < 0 ∨ 983040 < s) := rfl

/-- A fraction part is the remainder by 65536. -/
theorem hystFractional_eq (q : QWord) : hystFractional q = decide (q.toInt % 65536 ≠ 0) := by
  have h1 : (fractionOfQ q).toNat = q.toNat % 65536 := by simp [fractionOfQ]
  have hq := BitVec.toInt_eq_toNat_cond q
  have hlt := q.isLt
  have h2 : fractionOfQ q = 0 ↔ (fractionOfQ q).toNat = 0 :=
    ⟨fun h => by simp [h], fun h => BitVec.eq_of_toNat_eq (by simpa using h)⟩
  have h3 : fractionOfQ q = 0 ↔ q.toInt % 65536 = 0 := by
    rw [h2, h1, hq]; split <;> omega
  simp only [hystFractional, bne, beq_eq_decide, h3]
  by_cases h : q.toInt % 65536 = 0 <;> simp [h]

/-- When ENCHY's checks raise E_RANGE (R88, R89). -/
theorem hystError_eq_eRange {o : HystCheckOrder} {q : QWord} : hystError o q = some .eRange ↔
    (q.toInt < 0 ∨ 983040 < q.toInt) ∧ (q.toInt % 65536 = 0 ∨ o = .rangeFirst) := by
  simp only [hystError, hystOutOfRange_eq, hystFractional_eq, sintQ, decide_eq_true_eq]
  generalize q.toInt % 65536 = r
  cases o <;> simp only <;> split_ifs <;> simp_all

/-- When ENCHY's checks raise E_NONINT (R88, R89). -/
theorem hystError_eq_eNonint {o : HystCheckOrder} {q : QWord} : hystError o q = some .eNonint ↔
    q.toInt % 65536 ≠ 0 ∧ ((0 ≤ q.toInt ∧ q.toInt ≤ 983040) ∨ o = .wholeFirst) := by
  simp only [hystError, hystOutOfRange_eq, hystFractional_eq, sintQ, decide_eq_true_eq]
  generalize q.toInt % 65536 = r
  cases o <;> simp only <;> split_ifs <;> (simp_all; try omega)

/-- A setpoint in range rounds to at most 16000, a negative one to at most 5120 (R82, R90). -/
theorem setpointMagnitude_le {tie : Tie} {a k : Nat} (h : a ≤ k * 512) : setpointMagnitude tie a ≤ k := by
  cases tie
  · simp only [setpointMagnitude, Nat.shiftRight_eq_div_pow]; omega
  · simp only [setpointMagnitude, Nat.shiftRight_eq_div_pow]; split <;> omega

/-- A magnitude of 15 bits under the sign bit. -/
theorem signBit_or_toNat {m : Nat} (h : m < 32768) : (signBit ||| BitVec.ofNat 16 m).toNat = 32768 + m := by
  have hm : m % 2 ^ 16 = m := Nat.mod_eq_of_lt (by omega)
  rw [BitVec.toNat_or, BitVec.toNat_ofNat, hm]
  have := Nat.two_pow_add_eq_or_of_lt (i := 15) (b := m) (by omega) 1
  simpa [signBit] using this.symm

theorem toInt_tc16 {n : Int} (h : -32768 ≤ n) (h' : n ≤ 32767) : (tc16 n).toInt = n := by
  rw [tc16, BitVec.toInt_ofInt]
  rw [Int.bmod_def]; split <;> omega

theorem toInt_tc32 {n : Int} (h : -2147483648 ≤ n) (h' : n ≤ 2147483647) : (tc32 n).toInt = n := by
  rw [tc32, BitVec.toInt_ofInt]
  rw [Int.bmod_def]; split <;> omega

end Sys2Proof.Machine
end

