-- ==== Sys2Proof/Laws/Decode.lean ====
section
/-! SUPPORT. The decoder and the encoder in arithmetic: the fields of a word as quotients and remainders, and one lemma per
format. -/

namespace Sys2Proof

theorem opcodeOf_toNat (w : CommandWord) : (opcodeOf w).toNat = w.toNat / 2 ^ 32 := by
  have := w.isLt
  simp only [opcodeOf, BitVec.extractLsb'_toNat, Nat.shiftRight_eq_div_pow]
  omega

theorem argOf_toNat (w : CommandWord) : (argOf w).toNat = w.toNat % 2 ^ 32 := by
  simp [argOf]

theorem append_toNat (op : BitVec 4) (arg : BitVec 32) :
    (op ++ arg : CommandWord).toNat = op.toNat * 2 ^ 32 + arg.toNat := by
  rw [BitVec.toNat_append, ← Nat.shiftLeft_add_eq_or_of_lt arg.isLt, Nat.shiftLeft_eq]

theorem opcodeOf_append (op : BitVec 4) (arg : BitVec 32) : opcodeOf (op ++ arg) = op := by
  apply BitVec.eq_of_toNat_eq
  have := arg.isLt
  rw [opcodeOf_toNat, append_toNat]
  omega

theorem argOf_append (op : BitVec 4) (arg : BitVec 32) : argOf (op ++ arg) = arg := by
  apply BitVec.eq_of_toNat_eq
  have := arg.isLt
  rw [argOf_toNat, append_toNat]
  omega

/-- A word is its opcode and its argument. -/
theorem append_fields (w : CommandWord) : opcodeOf w ++ argOf w = w := by
  apply BitVec.eq_of_toNat_eq
  rw [append_toNat, opcodeOf_toNat, argOf_toNat]
  omega

/-- A word written as opcode and argument decodes by those. -/
theorem decode_append (op : BitVec 4) (arg : BitVec 32) : decode (op ++ arg) = decodeFields op.toNat arg := by
  unfold decode
  rw [opcodeOf_append, argOf_append]

theorem formatN_eq_some {i j : Instr} {arg : BitVec 32} :
    formatN i arg = some j ↔ arg = 0 ∧ i = j := by
  simp [formatN]

theorem formatB_eq_some {mk : Byte → Instr} {arg : BitVec 32} {j : Instr} :
    formatB mk arg = some j ↔ ∃ b : Byte, arg = b.setWidth 32 ∧ mk b = j := by
  have key : arg.extractLsb' 8 24 = 0 ↔ ∃ b : Byte, arg = b.setWidth 32 := by
    constructor
    · intro h
      refine ⟨arg.extractLsb' 0 8, BitVec.eq_of_toNat_eq ?_⟩
      have h' := congrArg BitVec.toNat h
      have := arg.isLt
      simp [Nat.shiftRight_eq_div_pow] at h' ⊢
      omega
    · rintro ⟨b, rfl⟩
      apply BitVec.eq_of_toNat_eq
      have := b.isLt
      simp only [BitVec.extractLsb'_toNat, BitVec.toNat_setWidth, Nat.shiftRight_eq_div_pow]
      simp
      omega
  constructor
  · intro h
    unfold formatB at h
    split at h
    · obtain ⟨b, hb⟩ := key.1 ‹_›
      refine ⟨b, hb, ?_⟩
      have : arg.extractLsb' 0 8 = b := by
        have := b.isLt
        rw [hb]; apply BitVec.eq_of_toNat_eq; simp; omega
      simpa [this] using h
    · cases h
  · rintro ⟨b, hb, hj⟩
    have : arg.extractLsb' 0 8 = b := by
      have := b.isLt
      rw [hb]; apply BitVec.eq_of_toNat_eq; simp; omega
    simp [formatB, key.2 ⟨b, hb⟩, this, hj]

theorem formatH_eq_some {mk : Word → Instr} {arg : BitVec 32} {j : Instr} :
    formatH mk arg = some j ↔ ∃ t : Word, arg = t.setWidth 32 ∧ mk t = j := by
  have key : arg.extractLsb' 16 16 = 0 ↔ ∃ t : Word, arg = t.setWidth 32 := by
    constructor
    · intro h
      refine ⟨arg.extractLsb' 0 16, BitVec.eq_of_toNat_eq ?_⟩
      have h' := congrArg BitVec.toNat h
      have := arg.isLt
      simp [Nat.shiftRight_eq_div_pow] at h' ⊢
      omega
    · rintro ⟨t, rfl⟩
      apply BitVec.eq_of_toNat_eq
      have := t.isLt
      simp only [BitVec.extractLsb'_toNat, BitVec.toNat_setWidth, Nat.shiftRight_eq_div_pow]
      simp
      omega
  constructor
  · intro h
    unfold formatH at h
    split at h
    · obtain ⟨t, ht⟩ := key.1 ‹_›
      refine ⟨t, ht, ?_⟩
      have : arg.extractLsb' 0 16 = t := by
        have := t.isLt
        rw [ht]; apply BitVec.eq_of_toNat_eq; simp; omega
      simpa [this] using h
    · cases h
  · rintro ⟨t, ht, hj⟩
    have : arg.extractLsb' 0 16 = t := by
      have := t.isLt
      rw [ht]; apply BitVec.eq_of_toNat_eq; simp; omega
    simp [formatH, key.2 ⟨t, ht⟩, this, hj]

theorem formatQ_eq_some {mk : QWord → Instr} {arg : BitVec 32} {j : Instr} :
    formatQ mk arg = some j ↔ mk arg = j := by
  simp [formatQ]

end Sys2Proof
end

