-- ==== Sys2Proof/Laws/State.lean ====
section
/-! SUPPORT. One lemma per field per update of State and of Flags, so that no later proof unfolds a record update. -/

namespace Sys2Proof.Machine

@[simp] theorem State.setTmsb_tmsb (s : State) (x : Option Byte) : (s.setTmsb x).tmsb = x := rfl
@[simp] theorem State.setTmsb_tlsb (s : State) (x : Option Byte) : (s.setTmsb x).tlsb = s.tlsb := rfl
@[simp] theorem State.setTmsb_dout (s : State) (x : Option Byte) : (s.setTmsb x).dout = s.dout := rfl
@[simp] theorem State.setTmsb_tout (s : State) (x : Option Byte) : (s.setTmsb x).tout = s.tout := rfl
@[simp] theorem State.setTmsb_val (s : State) (x : Option Byte) : (s.setTmsb x).val = s.val := rfl
@[simp] theorem State.setTmsb_flags (s : State) (x : Option Byte) : (s.setTmsb x).flags = s.flags := rfl
@[simp] theorem State.setTmsb_err (s : State) (x : Option Byte) : (s.setTmsb x).err = s.err := rfl
@[simp] theorem State.setTmsb_inputs (s : State) (x : Option Byte) : (s.setTmsb x).inputs = s.inputs := rfl
@[simp] theorem State.setTmsb_params (s : State) (x : Option Byte) : (s.setTmsb x).params = s.params := rfl

@[simp] theorem State.setTlsb_tmsb (s : State) (x : Option Byte) : (s.setTlsb x).tmsb = s.tmsb := rfl
@[simp] theorem State.setTlsb_tlsb (s : State) (x : Option Byte) : (s.setTlsb x).tlsb = x := rfl
@[simp] theorem State.setTlsb_dout (s : State) (x : Option Byte) : (s.setTlsb x).dout = s.dout := rfl
@[simp] theorem State.setTlsb_tout (s : State) (x : Option Byte) : (s.setTlsb x).tout = s.tout := rfl
@[simp] theorem State.setTlsb_val (s : State) (x : Option Byte) : (s.setTlsb x).val = s.val := rfl
@[simp] theorem State.setTlsb_flags (s : State) (x : Option Byte) : (s.setTlsb x).flags = s.flags := rfl
@[simp] theorem State.setTlsb_err (s : State) (x : Option Byte) : (s.setTlsb x).err = s.err := rfl
@[simp] theorem State.setTlsb_inputs (s : State) (x : Option Byte) : (s.setTlsb x).inputs = s.inputs := rfl
@[simp] theorem State.setTlsb_params (s : State) (x : Option Byte) : (s.setTlsb x).params = s.params := rfl

@[simp] theorem State.setDout_tmsb (s : State) (x : Option Word) : (s.setDout x).tmsb = s.tmsb := rfl
@[simp] theorem State.setDout_tlsb (s : State) (x : Option Word) : (s.setDout x).tlsb = s.tlsb := rfl
@[simp] theorem State.setDout_dout (s : State) (x : Option Word) : (s.setDout x).dout = x := rfl
@[simp] theorem State.setDout_tout (s : State) (x : Option Word) : (s.setDout x).tout = s.tout := rfl
@[simp] theorem State.setDout_val (s : State) (x : Option Word) : (s.setDout x).val = s.val := rfl
@[simp] theorem State.setDout_flags (s : State) (x : Option Word) : (s.setDout x).flags = s.flags := rfl
@[simp] theorem State.setDout_err (s : State) (x : Option Word) : (s.setDout x).err = s.err := rfl
@[simp] theorem State.setDout_inputs (s : State) (x : Option Word) : (s.setDout x).inputs = s.inputs := rfl
@[simp] theorem State.setDout_params (s : State) (x : Option Word) : (s.setDout x).params = s.params := rfl

@[simp] theorem State.setTout_tmsb (s : State) (x : Option Word) : (s.setTout x).tmsb = s.tmsb := rfl
@[simp] theorem State.setTout_tlsb (s : State) (x : Option Word) : (s.setTout x).tlsb = s.tlsb := rfl
@[simp] theorem State.setTout_dout (s : State) (x : Option Word) : (s.setTout x).dout = s.dout := rfl
@[simp] theorem State.setTout_tout (s : State) (x : Option Word) : (s.setTout x).tout = x := rfl
@[simp] theorem State.setTout_val (s : State) (x : Option Word) : (s.setTout x).val = s.val := rfl
@[simp] theorem State.setTout_flags (s : State) (x : Option Word) : (s.setTout x).flags = s.flags := rfl
@[simp] theorem State.setTout_err (s : State) (x : Option Word) : (s.setTout x).err = s.err := rfl
@[simp] theorem State.setTout_inputs (s : State) (x : Option Word) : (s.setTout x).inputs = s.inputs := rfl
@[simp] theorem State.setTout_params (s : State) (x : Option Word) : (s.setTout x).params = s.params := rfl

@[simp] theorem State.setVal_tmsb (s : State) (x : Option Word) : (s.setVal x).tmsb = s.tmsb := rfl
@[simp] theorem State.setVal_tlsb (s : State) (x : Option Word) : (s.setVal x).tlsb = s.tlsb := rfl
@[simp] theorem State.setVal_dout (s : State) (x : Option Word) : (s.setVal x).dout = s.dout := rfl
@[simp] theorem State.setVal_tout (s : State) (x : Option Word) : (s.setVal x).tout = s.tout := rfl
@[simp] theorem State.setVal_val (s : State) (x : Option Word) : (s.setVal x).val = x := rfl
@[simp] theorem State.setVal_flags (s : State) (x : Option Word) : (s.setVal x).flags = s.flags := rfl
@[simp] theorem State.setVal_err (s : State) (x : Option Word) : (s.setVal x).err = s.err := rfl
@[simp] theorem State.setVal_inputs (s : State) (x : Option Word) : (s.setVal x).inputs = s.inputs := rfl
@[simp] theorem State.setVal_params (s : State) (x : Option Word) : (s.setVal x).params = s.params := rfl

@[simp] theorem State.setFlags_tmsb (s : State) (x : Flags) : (s.setFlags x).tmsb = s.tmsb := rfl
@[simp] theorem State.setFlags_tlsb (s : State) (x : Flags) : (s.setFlags x).tlsb = s.tlsb := rfl
@[simp] theorem State.setFlags_dout (s : State) (x : Flags) : (s.setFlags x).dout = s.dout := rfl
@[simp] theorem State.setFlags_tout (s : State) (x : Flags) : (s.setFlags x).tout = s.tout := rfl
@[simp] theorem State.setFlags_val (s : State) (x : Flags) : (s.setFlags x).val = s.val := rfl
@[simp] theorem State.setFlags_flags (s : State) (x : Flags) : (s.setFlags x).flags = x := rfl
@[simp] theorem State.setFlags_err (s : State) (x : Flags) : (s.setFlags x).err = s.err := rfl
@[simp] theorem State.setFlags_inputs (s : State) (x : Flags) : (s.setFlags x).inputs = s.inputs := rfl
@[simp] theorem State.setFlags_params (s : State) (x : Flags) : (s.setFlags x).params = s.params := rfl

@[simp] theorem State.setErr_tmsb (s : State) (x : ErrorCode) : (s.setErr x).tmsb = s.tmsb := rfl
@[simp] theorem State.setErr_tlsb (s : State) (x : ErrorCode) : (s.setErr x).tlsb = s.tlsb := rfl
@[simp] theorem State.setErr_dout (s : State) (x : ErrorCode) : (s.setErr x).dout = s.dout := rfl
@[simp] theorem State.setErr_tout (s : State) (x : ErrorCode) : (s.setErr x).tout = s.tout := rfl
@[simp] theorem State.setErr_val (s : State) (x : ErrorCode) : (s.setErr x).val = s.val := rfl
@[simp] theorem State.setErr_flags (s : State) (x : ErrorCode) : (s.setErr x).flags = s.flags := rfl
@[simp] theorem State.setErr_err (s : State) (x : ErrorCode) : (s.setErr x).err = x := rfl
@[simp] theorem State.setErr_inputs (s : State) (x : ErrorCode) : (s.setErr x).inputs = s.inputs := rfl
@[simp] theorem State.setErr_params (s : State) (x : ErrorCode) : (s.setErr x).params = s.params := rfl

@[simp] theorem State.setInputs_tmsb (s : State) (x : List PortInput) : (s.setInputs x).tmsb = s.tmsb := rfl
@[simp] theorem State.setInputs_tlsb (s : State) (x : List PortInput) : (s.setInputs x).tlsb = s.tlsb := rfl
@[simp] theorem State.setInputs_dout (s : State) (x : List PortInput) : (s.setInputs x).dout = s.dout := rfl
@[simp] theorem State.setInputs_tout (s : State) (x : List PortInput) : (s.setInputs x).tout = s.tout := rfl
@[simp] theorem State.setInputs_val (s : State) (x : List PortInput) : (s.setInputs x).val = s.val := rfl
@[simp] theorem State.setInputs_flags (s : State) (x : List PortInput) : (s.setInputs x).flags = s.flags := rfl
@[simp] theorem State.setInputs_err (s : State) (x : List PortInput) : (s.setInputs x).err = s.err := rfl
@[simp] theorem State.setInputs_inputs (s : State) (x : List PortInput) : (s.setInputs x).inputs = x := rfl
@[simp] theorem State.setInputs_params (s : State) (x : List PortInput) : (s.setInputs x).params = s.params := rfl

@[simp] theorem State.resetBlock_tmsb (s : State) : s.resetBlock.tmsb = none := rfl
@[simp] theorem State.resetBlock_tlsb (s : State) : s.resetBlock.tlsb = none := rfl
@[simp] theorem State.resetBlock_dout (s : State) : s.resetBlock.dout = none := rfl
@[simp] theorem State.resetBlock_tout (s : State) : s.resetBlock.tout = none := rfl
@[simp] theorem State.resetBlock_val (s : State) : s.resetBlock.val = none := rfl
@[simp] theorem State.resetBlock_flags (s : State) : s.resetBlock.flags = Flags.empty := rfl
@[simp] theorem State.resetBlock_err (s : State) : s.resetBlock.err = .eNone := rfl
@[simp] theorem State.resetBlock_inputs (s : State) : s.resetBlock.inputs = s.inputs := rfl
@[simp] theorem State.resetBlock_params (s : State) : s.resetBlock.params = s.params := rfl

@[simp] theorem Flags.get_empty (f : FlagName) : Flags.empty.get f = none := by cases f <;> rfl

theorem Flags.get_clear (fl : Flags) (f g : FlagName) :
    (fl.clear f).get g = if g = f then none else fl.get g := by
  cases f <;> cases g <;> rfl

/-- Two sets of fields with equal fields are equal. -/
theorem Flags.eq_of_get {a b : Flags} (h : ∀ f, a.get f = b.get f) : a = b := by
  cases a; cases b
  have h1 := h .res; have h2 := h .neg; have h3 := h .idok; have h4 := h .cfgz
  have h5 := h .rdy; have h6 := h .acr; have h7 := h .ahi; have h8 := h .alo
  simp only [Flags.get] at h1 h2 h3 h4 h5 h6 h7 h8
  simp [h1, h2, h3, h4, h5, h6, h7, h8]

end Sys2Proof.Machine
end

