-- ==== Sys2Proof/Laws/Ops.lean ====
section
/-! SUPPORT. One lemma per shared operation, saying once everything it does: ending a command, raising an error, emptying a
register, taking a sample, routing, decoding and encoding a word, and the meanings built on them. -/

namespace Sys2Proof.Machine

theorem ok_eq (s : State) : ok s = .next (s.setErr .eNone) := rfl

/-- Emptying a register touches that register alone. -/
theorem State.get_emptyReg (s : State) (r r' : Reg) :
    (s.emptyReg r).get r' = if r' = r then none else s.get r' := by
  cases r <;> cases r' <;> simp [State.emptyReg, State.get]
  case flag.flag f g =>
    rw [Flags.get_clear]; split <;> rfl

theorem State.emptyReg_err (s : State) (r : Reg) : (s.emptyReg r).err = s.err := by cases r <;> rfl
theorem State.emptyReg_inputs (s : State) (r : Reg) : (s.emptyReg r).inputs = s.inputs := by cases r <;> rfl
theorem State.emptyReg_params (s : State) (r : Reg) : (s.emptyReg r).params = s.params := by cases r <;> rfl

/-- Emptying a list of registers empties those and no other. -/
theorem State.foldl_emptyReg (rs : List Reg) (s : State) :
    (∀ r, (rs.foldl State.emptyReg s).get r = if r ∈ rs then none else s.get r) ∧
      (rs.foldl State.emptyReg s).inputs = s.inputs ∧ (rs.foldl State.emptyReg s).params = s.params := by
  induction rs generalizing s with
  | nil => simp
  | cons a rs ih =>
    obtain ⟨hget, hin, hpar⟩ := ih (s.emptyReg a)
    refine ⟨fun r => ?_, hin.trans (s.emptyReg_inputs a), hpar.trans (s.emptyReg_params a)⟩
    rw [List.foldl_cons, hget, State.get_emptyReg]
    by_cases h1 : r ∈ rs <;> by_cases h2 : r = a <;> simp [h1, h2]

/-- Everything `raise` does (R121). -/
theorem raise_spec {code : ErrorCode} {rs : List Reg} {s t : State} (h : raise code rs s = .next t) :
    t.err = code ∧ (∀ r ∈ rs, t.get r = none) ∧ (∀ r, r ∉ rs → t.get r = s.get r) ∧
      t.inputs = s.inputs ∧ t.params = s.params := by
  obtain ⟨hget, hin, hpar⟩ := State.foldl_emptyReg rs s
  injection h with h
  subst h
  have hsame : ∀ r, ((rs.foldl State.emptyReg s).setErr code).get r = (rs.foldl State.emptyReg s).get r := by
    intro r; cases r <;> rfl
  refine ⟨rfl, fun r hr => ?_, fun r hr => ?_, hin, hpar⟩
  · rw [hsame, hget, if_pos hr]
  · rw [hsame, hget, if_neg hr]

theorem raiseIllegal_eq (s : State) : raiseIllegal s = .next (s.setErr .eIllcmd) := rfl

theorem raise_dect (s : State) :
    raise .eEmpty dectDestinations s =
      .next ((((s.setVal none).setFlags { s.flags with neg := none }).setDout none).setErr .eEmpty) := rfl

theorem raise_encode (e : ErrorCode) (s : State) :
    raise e encodeDestinations s = .next (((s.setDout none).setTout none).setErr e) := rfl

theorem route_eq (w : Word) (fl : Flags) (s : State) :
    route w fl s = .next (((s.setFlags fl).setDout (some w)).setErr .eNone) := rfl

theorem decodeWord_eq (r : Resolution) (w : Word) (s : State) :
    decodeWord r w s = .next ((((s.setVal (some (tc16 (val128 r w)))).setFlags
      { s.flags with neg := some (flagNeg w) }).setDout (some w)).setErr .eNone) := rfl

theorem putEncoded_eq (w : Word) (t : Option Word) (s : State) :
    putEncoded w t s = .next (((s.setDout (some w)).setTout t).setErr .eNone) := rfl

/-- DECT with its three inputs present decodes, with one missing it raises. -/
theorem execDect_cases (s : State) :
    (∃ m l res, s.tmsb = some m ∧ s.tlsb = some l ∧ s.flags.res = some res ∧
      execDect s = decodeWord (resolutionOf s.params res) (joinBytes m l) s) ∨
    ((s.tmsb = none ∨ s.tlsb = none ∨ s.flags.res = none) ∧
      execDect s = raise .eEmpty dectDestinations s) := by
  unfold execDect
  cases hm : s.tmsb <;> cases hl : s.tlsb <;> cases hr : s.flags.res <;> simp

/-- ENCSP packs its word, or raises where the operand is out of range. -/
theorem execEncsp_cases (q : QWord) (s : State) :
    (setpointOutOfRange (sintQ q) = true ∧ execEncsp q s = raise .eRange encodeDestinations s) ∨
    (setpointOutOfRange (sintQ q) = false ∧ execEncsp q s =
      putEncoded (setpointWord s.params.tie (sintQ q)) (some (swap16 (setpointWord s.params.tie (sintQ q)))) s) := by
  unfold execEncsp
  cases h : setpointOutOfRange (sintQ q) <;> simp

/-- ENCHY puts its byte, or raises the error its checks give. -/
theorem execEnchy_cases (q : QWord) (s : State) :
    (∃ e, hystError s.params.hystCheckOrder q = some e ∧ execEnchy q s = raise e encodeDestinations s) ∨
    (hystError s.params.hystCheckOrder q = none ∧
      execEnchy q s = putEncoded (zext16 (hystByteOfQ q)) none s) := by
  unfold execEnchy
  cases h : hystError s.params.hystCheckOrder q <;> simp

theorem hystError_cases {o : HystCheckOrder} {q : QWord} {e : ErrorCode} (h : hystError o q = some e) :
    e = .eRange ∨ e = .eNonint := by
  cases o <;> simp only [hystError] at h <;> split at h <;> (try split at h) <;> simp_all

theorem takeInput_nil {s : State} (h : s.inputs = []) : takeInput s = (.idle, s) := by
  simp [takeInput, h]

theorem takeInput_cons {s : State} {p : PortInput} {rest : List PortInput} (h : s.inputs = p :: rest) :
    takeInput s = (p.event, s.setInputs rest) := by
  simp [takeInput, h]

/-- Everything a step can be: nothing presented, reset, a command, or an illegal word. -/
theorem step_cases (s : State) :
    (s.inputs = [] ∧ step s = .next s) ∨
    (∃ p rest, s.inputs = p :: rest ∧
      ((p.rst = true ∧ step s = .next (s.setInputs rest).resetBlock) ∨
       (p.rst = false ∧ p.cmdValid = false ∧ step s = .next (s.setInputs rest)) ∨
       (p.rst = false ∧ p.cmdValid = true ∧ ∃ i, decode p.cmd = some i ∧ step s = exec i (s.setInputs rest)) ∨
       (p.rst = false ∧ p.cmdValid = true ∧ decode p.cmd = none ∧
          step s = .next ((s.setInputs rest).setErr .eIllcmd)))) := by
  cases hin : s.inputs with
  | nil => left; simp [step, takeInput_nil hin]
  | cons p rest =>
    right
    refine ⟨p, rest, rfl, ?_⟩
    simp only [step, takeInput_cons hin, PortInput.event]
    cases hr : p.rst with
    | true => simp
    | false =>
      cases hv : p.cmdValid with
      | false => simp
      | true =>
        cases hd : decode p.cmd with
        | none => simp [runWord, hd, raiseIllegal_eq]
        | some i => simp [runWord, hd]

end Sys2Proof.Machine
end

