-- ==== Sys2Proof/Laws/PerInstr.lean ====
section
/-! SUPPORT. Families of statements made per instruction, one lemma per constructor (LAWS.json). -/

namespace Sys2Proof.Laws.EncodeWellFormed

/-- The encoder gives a well-formed command word: a defined opcode, its must-be-zero bits zero (R51 to R58). -/
def Statement (i : Instr) : Prop := wordWellFormed (encode i) = true

theorem of_fields {op : BitVec 4} {arg : BitVec 32} {f : Format}
    (hf : formatOfOpcode op.toNat = some f) (ha : arg.toNat < 2 ^ f.operandBits) :
    wordWellFormed (op ++ arg) = true := by
  have h1 := opcodeOf_toNat (op ++ arg)
  have h2 := argOf_toNat (op ++ arg)
  rw [opcodeOf_append] at h1
  rw [argOf_append] at h2
  simp only [wordWellFormed]
  rw [← h1, ← h2, hf]
  simpa using ha

theorem byte_arg (b : Byte) : (b.setWidth 32).toNat < 2 ^ Format.operandBits .b := by
  have := b.isLt
  simp [Format.operandBits]
  omega

theorem word_arg (t : Word) : (t.setWidth 32).toNat < 2 ^ Format.operandBits .h := by
  have := t.isLt
  simp [Format.operandBits]
  omega

theorem q_arg (q : QWord) : q.toNat < 2 ^ Format.operandBits .q := q.isLt

theorem nop : Statement .nop := of_fields (f := .n) rfl (by decide)
theorem ldcfg (b : Byte) : Statement (.ldcfg b) := of_fields (f := .b) rfl (byte_arg b)
theorem ldstat (b : Byte) : Statement (.ldstat b) := of_fields (f := .b) rfl (byte_arg b)
theorem ldtmsb (b : Byte) : Statement (.ldtmsb b) := of_fields (f := .b) rfl (byte_arg b)
theorem ldtlsb (b : Byte) : Statement (.ldtlsb b) := of_fields (f := .b) rfl (byte_arg b)
theorem ldalrm (t : Word) : Statement (.ldalrm t) := of_fields (f := .h) rfl (word_arg t)
theorem ldhyst (b : Byte) : Statement (.ldhyst b) := of_fields (f := .b) rfl (byte_arg b)
theorem ldid (b : Byte) : Statement (.ldid b) := of_fields (f := .b) rfl (byte_arg b)
theorem dect : Statement .dect := of_fields (f := .n) rfl (by decide)
theorem decsp (t : Word) : Statement (.decsp t) := of_fields (f := .h) rfl (word_arg t)
theorem encsp (q : QWord) : Statement (.encsp q) := of_fields (f := .q) rfl (q_arg q)
theorem enchy (q : QWord) : Statement (.enchy q) := of_fields (f := .q) rfl (q_arg q)
theorem clr : Statement .clr := of_fields (f := .n) rfl (by decide)

end Sys2Proof.Laws.EncodeWellFormed
end

