-- ==== Sys2Proof/Laws/Ports.lean ====
section
/-! SUPPORT. What a read of an output port answers, and the bits of a packed `FLAGS` word. -/

namespace Sys2Proof.Machine

/-- A read answers the register's value, and nothing else (R11). -/
theorem readPort_eq_ok {s : State} {p : OutPort} {x : Nat} : readPort s p = .ok x ↔ s.get p.reg = some x := by
  unfold readPort
  cases s.get p.reg <;> simp

/-- A read of an empty output answers that output's fault (log entry 9). -/
theorem readPort_eq_error {s : State} {p : OutPort} {e : Fault} :
    readPort s p = .error e ↔ s.get p.reg = none ∧ e = .emptyOutput p := by
  unfold readPort
  cases s.get p.reg <;> simp [eq_comm]

theorem FlagName.mem_all (f : FlagName) : f ∈ FlagName.all := by cases f <;> decide

/-- One field or-ed in at its bit. -/
theorem getLsbD_ite_or (c : Bool) (acc k : BitVec 8) (i : Nat) :
    (if c then acc ||| k else acc).getLsbD i = (acc.getLsbD i || (c && k.getLsbD i)) := by
  cases c <;> simp

/-- Each field of a packed word is at its bit (R19). -/
theorem getLsbD_packFlags (f : FlagName → Bool) (n : FlagName) : (packFlags f).getLsbD n.bit = f n := by
  simp only [packFlags, FlagName.all, List.foldl_cons, List.foldl_nil, getLsbD_ite_or]
  cases n <;> simp [FlagName.bit]

end Sys2Proof.Machine
end

