-- ==== Sys2Proof/Machine/Assembler.lean ====
section
/-! DEFINITION. The assembler syntax (30_encoding.md R60): one command a line, a semicolon begins a comment. A line is a
list of characters. What R60 leaves open of the spelling is log entry 14. -/

namespace Sys2Proof.Machine

/-- An operand as written. -/
inductive AsmOperand where
  /-- Hexadecimal: the number and how many digits it was written with. -/
  | hex (value digits : Nat)
  /-- A decimal number of degrees with a decimal point: `mantissa / 10^places`. -/
  | decimal (mantissa : Int) (places : Nat)
deriving DecidableEq, Repr

/-- A hexadecimal digit's value. -/
def hexDigit (c : Char) : Option Nat :=
  let n := c.toNat
  if 48 ≤ n ∧ n ≤ 57 then some (n - 48)
  else if 65 ≤ n ∧ n ≤ 70 then some (n - 55)
  else if 97 ≤ n ∧ n ≤ 102 then some (n - 87)
  else none

/-- A decimal digit's value. -/
def decDigit (c : Char) : Option Nat :=
  let n := c.toNat
  if 48 ≤ n ∧ n ≤ 57 then some (n - 48) else none

/-- A number from its digits, the most significant first, onto `acc`. -/
def digitsFrom (digit : Char → Option Nat) (base : Nat) : Nat → List Char → Option Nat
  | acc, [] => some acc
  | acc, c :: cs =>
    match digit c with
    | some d => digitsFrom digit base (acc * base + d) cs
    | none => none

/-- A decimal with digits on both sides of its point. -/
def parseDecimal (negative : Bool) (cs : List Char) : Option AsmOperand :=
  let whole := cs.takeWhile (· ≠ '.')
  match cs.drop whole.length with
  | _ :: frac =>
    if whole = [] ∨ frac = [] then none
    else (digitsFrom decDigit 10 0 (whole ++ frac)).map fun m =>
      .decimal (if negative then -(m : Int) else m) frac.length
  | [] => none

/-- An operand from its characters. -/
def parseOperand : List Char → Option AsmOperand
  | '0' :: 'x' :: ds =>
    if ds = [] then none else (digitsFrom hexDigit 16 0 ds).map fun v => .hex v ds.length
  | '-' :: cs => parseDecimal true cs
  | cs => parseDecimal false cs

/-- A format B operand: a number 0 to 255 in hexadecimal. -/
def byteOperand : Option AsmOperand → Option Byte
  | some (.hex v _) => if v < 2 ^ 8 then some (BitVec.ofNat 8 v) else none
  | _ => none

/-- A format H operand: a number 0 to 65535 in hexadecimal, the transport word. -/
def wordOperand : Option AsmOperand → Option Word
  | some (.hex v _) => if v < 2 ^ 16 then some (BitVec.ofNat 16 v) else none
  | _ => none

/-- A format Q operand: eight hexadecimal digits, or a decimal whose value times 65536 is an integer that 32 bits hold,
which stands for `tc32(value * 65536)`. -/
def qOperand : Option AsmOperand → Option QWord
  | some (.hex v d) => if d = 8 then some (BitVec.ofNat 32 v) else none
  | some (.decimal m k) =>
    let n := m * 65536
    let den : Int := 10 ^ k
    if n % den = 0 ∧ -(2 ^ 31) ≤ n / den ∧ n / den ≤ 2 ^ 31 - 1 then some (tc32 (n / den)) else none
  | none => none

/-- No operand. -/
def noOperand (i : Instr) : Option AsmOperand → Option Instr
  | none => some i
  | some _ => none

/-- A command from its mnemonic, in capitals, and its operand. -/
def assembleCommand (mnemonic : List Char) (x : Option AsmOperand) : Option Instr :=
  match mnemonic with
  | ['N', 'O', 'P'] => noOperand .nop x
  | ['L', 'D', 'C', 'F', 'G'] => (byteOperand x).map .ldcfg
  | ['L', 'D', 'S', 'T', 'A', 'T'] => (byteOperand x).map .ldstat
  | ['L', 'D', 'T', 'M', 'S', 'B'] => (byteOperand x).map .ldtmsb
  | ['L', 'D', 'T', 'L', 'S', 'B'] => (byteOperand x).map .ldtlsb
  | ['L', 'D', 'A', 'L', 'R', 'M'] => (wordOperand x).map .ldalrm
  | ['L', 'D', 'H', 'Y', 'S', 'T'] => (byteOperand x).map .ldhyst
  | ['L', 'D', 'I', 'D'] => (byteOperand x).map .ldid
  | ['D', 'E', 'C', 'T'] => noOperand .dect x
  | ['D', 'E', 'C', 'S', 'P'] => (wordOperand x).map .decsp
  | ['E', 'N', 'C', 'S', 'P'] => (qOperand x).map .encsp
  | ['E', 'N', 'C', 'H', 'Y'] => (qOperand x).map .enchy
  | ['C', 'L', 'R'] => noOperand .clr x
  | _ => none

/-- The words of a line between spaces, its comment left out. -/
def lineWords : List Char → List (List Char)
  | [] => []
  | ';' :: _ => []
  | ' ' :: cs => lineWords cs
  | c :: cs =>
    match cs, lineWords cs with
    | ' ' :: _, ws | ';' :: _, ws | [], ws => [c] :: ws
    | _, w :: ws => (c :: w) :: ws
    | _, [] => [[c]]

/-- The command a line is, none where it is no command. -/
def assembleLine (line : List Char) : Option Instr :=
  match lineWords line with
  | [m] => assembleCommand m none
  | [m, x] => (parseOperand x).bind fun o => assembleCommand m (some o)
  | _ => none

/-- The word of a line. -/
def assembleWord (line : List Char) : Option CommandWord := (assembleLine line).map encode

end Sys2Proof.Machine
end

