-- ==== Sys2Proof/Tests/Slice0.lean ====
section
/-! SUPPORT. Tests: words written out from the spec's encodings, vectors of 95_test_vectors.md (the table or program is
named), ill-formed words refused, and for every statement with hypotheses a state and operands that meet them. -/

namespace Sys2Proof.Tests

open Sys2Proof Sys2Proof.Machine

/-- The state a command leads to. -/
def after (i : Instr) (s : State) : Option State :=
  match exec i s with
  | .next t => some t
  | _ => none

/-- The state a step leads to. -/
def stepped (s : State) : Option State :=
  match step s with
  | .next t => some t
  | _ => none

/-- The reset state with word `w` presented. -/
def presented (w : CommandWord) : State := State.reset.setInputs [present w]

/-- The latches and the resolution loaded. -/
def loaded (m l : Byte) (res : Bool) : State :=
  { State.reset with tmsb := some m, tlsb := some l, flags := { Flags.empty with res := some res, cfgz := some false } }

/-- The parameter TIE at its other value. -/
def evenTies : State := { State.reset with params := { paramsTaken with tie := .halfToEven } }

/-- The parameter HYST_CHECK_ORDER at its other value. -/
def wholeFirst : State := { State.reset with params := { paramsTaken with hystCheckOrder := .wholeFirst } }

/-- A setpoint encoded before: `TOUT = 0x803E`. -/
def withTout : State := { State.reset with dout := some 0x3E80, tout := some 0x803E }

/-! ## Decoding: every constructor, from a word written out by R50 to R55 (R60 and the V-tables) -/

theorem test_decode_nop : decode 0b000000000000000000000000000000000000 = some .nop := by decide
theorem test_decode_ldcfg : decode 0b000100000000000000000000000010000000 = some (.ldcfg 0x80) := by decide
theorem test_decode_ldstat : decode 0b001000000000000000000000000001111111 = some (.ldstat 0x7F) := by decide
theorem test_decode_ldtmsb : decode 0b001100000000000000000000000010101011 = some (.ldtmsb 0xAB) := by decide
theorem test_decode_ldtlsb : decode 0b010000000000000000000000000011001101 = some (.ldtlsb 0xCD) := by decide
theorem test_decode_ldalrm : decode 0b010100000000000000001000110100001100 = some (.ldalrm 0x8D0C) := by decide
theorem test_decode_ldhyst : decode 0b011000000000000000000000000011110011 = some (.ldhyst 0xF3) := by decide
theorem test_decode_ldid : decode 0b011100000000000000000000000011001011 = some (.ldid 0xCB) := by decide
theorem test_decode_dect : decode 0b100000000000000000000000000000000000 = some .dect := by decide
theorem test_decode_decsp : decode 0b100100000000000000001000000000111110 = some (.decsp 0x803E) := by decide
theorem test_decode_encsp : decode 0b101011111111110110000000000000000000 = some (.encsp 0xFFD80000) := by decide
theorem test_decode_enchy : decode 0b101100000000000000111000000000000000 = some (.enchy 0x00038000) := by decide
theorem test_decode_clr : decode 0b111100000000000000000000000000000000 = some .clr := by decide

/-! ## Ill-formed words, one for each check (V-ILL): refused by the check and by the decoder -/

theorem test_reserved_opcodes_refused :
    wordWellFormed 0xC00000000 = false ∧ wordWellFormed 0xD12345678 = false ∧ wordWellFormed 0xEFFFFFFFF = false ∧
    decode 0xC00000000 = none ∧ decode 0xD12345678 = none ∧ decode 0xEFFFFFFFF = none := by decide
theorem test_format_n_nonzero_refused :
    wordWellFormed 0x800000001 = false ∧ decode 0x000000001 = none ∧ decode 0x800000001 = none ∧
    decode 0xF00000001 = none := by decide
theorem test_format_b_nonzero_refused :
    wordWellFormed 0x100000180 = false ∧ decode 0x100000180 = none ∧ decode 0x300000100 = none := by decide
theorem test_format_h_nonzero_refused :
    wordWellFormed 0x500010000 = false ∧ decode 0x500010000 = none ∧ decode 0x900010000 = none := by decide
theorem test_well_formed : wordWellFormed 0xBFFFFFFFF = true ∧ wordWellFormed 0x90000FFFF = true := by decide

theorem test_table_word : decodeTableWord 40 0x90000803E = some (.decsp 0x803E) ∧
    decodeTableWord 36 0x90000803E = some (.decsp 0x803E) ∧ decodeTableWord 40 0x1000000000 = none := by decide

/-! ## Assembler (R60's own examples) -/

theorem test_assemble_hex : assembleWord "LDCFG 0x80".toList = some 0x100000080 := by decide
theorem test_assemble_decimal : assembleWord "ENCSP -40.0 ; low end".toList = some 0xAFFD80000 := by decide
theorem test_assemble_range : assembleWord "LDCFG 0x100".toList = none ∧ assembleWord "ENCSP 0x7D0000".toList = none ∧
    assembleWord "ENCSP 0.1".toList = none ∧ assembleWord "dect".toList = none := by decide

/-! ## Meanings, at most two a command -/

/-- V-CTL. -/
theorem test_nop_keeps_err :
    after .nop (State.reset.setErr .eRange) = some (State.reset.setErr .eRange) := by decide
theorem test_clr_resets : after .clr (loaded 0x0C 0x8F true) = some State.reset := by decide
/-- V-MUX. -/
theorem test_ldcfg_80 : (after (.ldcfg 0x80) .reset).map (fun t => (t.flags.res, t.flags.cfgz, t.dout)) =
    some (some true, some false, some 0x0080) := by decide
theorem test_ldcfg_00 : (after (.ldcfg 0x00) .reset).map (fun t => (t.flags.res, t.flags.cfgz)) =
    some (some false, some true) := by decide
theorem test_ldstat_7F : (after (.ldstat 0x7F) .reset).map (fun t => (t.flags.rdy, t.dout)) =
    some (some true, some 0x007F) := by decide
theorem test_ldstat_80 : (after (.ldstat 0x80) .reset).map (fun t => t.flags.rdy) = some (some false) := by decide
theorem test_ldtmsb_AB : (after (.ldtmsb 0xAB) .reset).map (fun t => (t.tmsb, t.tlsb, t.dout)) =
    some (some 0xAB, none, some 0x00AB) := by decide
theorem test_ldtlsb_CD : (after (.ldtlsb 0xCD) .reset).map (fun t => (t.tmsb, t.tlsb, t.flags)) =
    some (none, some 0xCD, Flags.empty) := by decide
theorem test_ldalrm_8D0C : (after (.ldalrm 0x8D0C) .reset).map
    (fun t => (t.flags.alo, t.flags.ahi, t.flags.acr, t.dout)) =
    some (some true, some false, some true, some 0x0C8D) := by decide
theorem test_ldalrm_0001 : (after (.ldalrm 0x0001) .reset).map
    (fun t => (t.flags.alo, t.flags.ahi, t.flags.acr, t.dout)) =
    some (some false, some false, some false, some 0x0100) := by decide
theorem test_ldhyst_F3 : (after (.ldhyst 0xF3) .reset).map (fun t => (t.dout, t.flags)) =
    some (some 0x00F3, Flags.empty) := by decide
theorem test_ldid : (after (.ldid 0xCB) .reset).map (fun t => t.flags.idok) = some (some true) ∧
    (after (.ldid 0xCA) .reset).map (fun t => (t.flags.idok, t.err)) = some (some false, .eNone) := by decide
/-- V-DECT, W = 0x8007, both columns. -/
theorem test_dect_both_modes :
    (after .dect (loaded 0x80 0x07 true)).map (fun t => (t.val, t.flags.neg)) = some (some 0xFFF9, some true) ∧
    (after .dect (loaded 0x80 0x07 false)).map (fun t => (t.val, t.flags.neg)) = some (some 0x0000, some true) := by
  decide
/-- V-EMPTY, row "LDCFG 0x80". -/
theorem test_dect_empty : (after .dect { loaded 0 0 true with tmsb := none, val := some 0x1234 }).map
    (fun t => (t.val, t.dout, t.tlsb, t.err)) = some (none, none, some 0, .eEmpty) := by decide
/-- V-DECSP. -/
theorem test_decsp_0094 : (after (.decsp 0x0094) .reset).map (fun t => (t.val, t.flags.neg, t.dout)) =
    some (some 0xEC00, some true, some 0x9400) := by decide
theorem test_decsp_FFFF : (after (.decsp 0xFFFF) .reset).map (fun t => t.val) = some (some 0x8001) := by decide
/-- V-ENCSP: -(25 + 1/256), a tie, under both values of TIE. -/
theorem test_encsp_tie :
    (after (.encsp 0xFFE6FF00) .reset).map (fun t => (t.dout, t.tout)) = some (some 0x8C81, some 0x818C) ∧
    (after (.encsp 0xFFE6FF00) evenTies).map (fun t => (t.dout, t.tout)) = some (some 0x8C80, some 0x808C) := by decide
/-- V-ENCSP: 125 + 1/65536, and the least operand. -/
theorem test_encsp_range : (after (.encsp 0x007D0001) withTout).map (fun t => (t.dout, t.tout, t.err)) =
    some (none, none, .eRange) ∧ (after (.encsp 0x80000000) .reset).map (fun t => t.err) = some .eRange := by decide
/-- V-ENCHY. -/
theorem test_enchy_15 : (after (.enchy 0x000F0000) withTout).map (fun t => (t.dout, t.tout, t.err)) =
    some (some 0x000F, none, .eNone) := by decide
theorem test_enchy_both_faults : (after (.enchy 0x000F0001) withTout).map (fun t => (t.dout, t.tout, t.err)) =
    some (none, none, .eRange) ∧ (after (.enchy 0x000F0001) wholeFirst).map (fun t => t.err) = some .eNonint := by decide

/-! ## The step and the ports -/

/-- V-ILL: `0x300000100` writes no latch. -/
theorem test_step_illegal : stepped (presented 0x300000100) = some (State.reset.setErr .eIllcmd) := by decide
theorem test_step_reset_wins : stepped (withTout.setInputs [⟨true, true, 0xA007D0000⟩]) = some State.reset := by decide
theorem test_step_runs_fetch_word :
    (stepped (State.reset.withFetchWord 40 0xA007D0000)).map (fun t => (t.tout, t.inputs)) =
      some (some 0x803E, []) := by decide
/-- R120's numbers. -/
theorem test_err_codes : [ErrorCode.eNone, .eIllcmd, .eEmpty, .eRange, .eNonint].map ErrorCode.code = [0, 1, 2, 3, 4] := by
  decide
/-- R19's layout: `RES` at bit 7 and `CFGZ` at bit 4. -/
theorem test_flags_valid_bits : flagsV (loaded 0 0 true) = 0x90 := by decide
/-- R131 and R33's range. -/
theorem test_driver_open : (match driverOpen 1 0x4B with | .ok _ => true | .error _ => false) = true ∧
    (match driverOpen 2 0x48 with | .ok _ => true | .error _ => false) = false := by decide
theorem test_register_addresses_in_range : ∀ k ∈ [SetpointKind.high, .low, .crit], ∀ a ∈
    regAddrGeneral (.setpoint k) ++ regAddrGeneral .reset ++ regAddrGeneral .reserved, regLo ≤ a ∧ a ≤ regHi := by decide

/-! ## The pure functions (S4, S7, S8, and the ends of their ranges) -/

theorem test_dec16_8080 : dec16 0x8080 = -1 := by
  have h : (0x8080 : Word).getLsbD 15 = true := by decide
  have h2 : (0x8080 : Word).toNat % 32768 = 128 := by decide
  simp only [dec16, counts_sixteenBit, scale16, h, h2, if_true]
  norm_num
theorem test_dec13_8010 : dec13 0x8010 = -(1 / 8) := by
  have h : (0x8010 : Word).getLsbD 15 = true := by decide
  have h2 : (0x8010 : Word).toNat % 32768 / 8 = 2 := by decide
  simp only [dec13, counts_thirteenBit, scale13, h, h2, if_true]
  norm_num
theorem test_round_ties : roundTie .halfAwayFromZero (3200 + 1 / 2) = 3201 ∧ roundTie .halfToEven (3200 + 1 / 2) = 3200 ∧
    roundTie .halfToEven (3201 + 1 / 2) = 3202 := by
  have h1 : (3200 : Int).toNat = 3200 := rfl
  have h2 : (3201 : Int).toNat = 3201 := rfl
  refine ⟨?_, ?_, ?_⟩ <;> norm_num [roundTie, h1, h2]

/-! ## Hypotheses of the statements that some state and operands meet -/

theorem witness_encode_of_decode : decode 0x1000000FF = some (.ldcfg 0xFF) := by decide
theorem witness_opcode_table : ∃ r ∈ opcodeTable, r.fits 0xBFFFFFFFF = true ∧ r.mnemonic = "ENCHY" := by decide
theorem witness_reserved_opcodes : (presented 0xC00000000).inputs = present 0xC00000000 :: [] ∧
    (0xC00000000 : CommandWord).toNat / 2 ^ 32 = 0xC ∧ (0xD12345678 : CommandWord).toNat / 2 ^ 32 = 0xD ∧
    (0xEFFFFFFFF : CommandWord).toNat / 2 ^ 32 = 0xE := by decide
theorem witness_must_be_zero : (presented 0x100000100).inputs = present 0x100000100 :: [] ∧
    (formatOfOpcode ((0x800000001 : CommandWord).toNat / 2 ^ 32) = some .n ∧
      2 ^ Format.operandBits .n ≤ (0x800000001 : CommandWord).toNat % 2 ^ 32) ∧
    (formatOfOpcode ((0x100000100 : CommandWord).toNat / 2 ^ 32) = some .b ∧
      2 ^ Format.operandBits .b ≤ (0x100000100 : CommandWord).toNat % 2 ^ 32) ∧
    (formatOfOpcode ((0x500010000 : CommandWord).toNat / 2 ^ 32) = some .h ∧
      2 ^ Format.operandBits .h ≤ (0x500010000 : CommandWord).toNat % 2 ^ 32) := by decide
theorem witness_step_runs : (presented 0x100000080).inputs = present 0x100000080 :: [] ∧
    (present 0x100000080).rst = false ∧ (present 0x100000080).cmdValid = true ∧
    decode (present 0x100000080).cmd = some (.ldcfg 0x80) := by decide
theorem witness_nothing_presented : State.reset.inputs = [] ∧
    (withTout.setInputs [presentNothing]).inputs = presentNothing :: [] ∧ presentNothing.rst = false ∧
    presentNothing.cmdValid = false := by decide
theorem witness_reset_asserted : (withTout.setInputs [assertRst]).inputs = assertRst :: [] ∧ assertRst.rst = true := by
  decide
theorem witness_step_answers : step (presented 0x600000003) =
    .next ((State.reset.setDout (some 0x0003)).setErr .eNone) := rfl
theorem witness_later_samples : step { State.reset with inputs := present 0x600000003 :: [assertRst] } =
    .next (((State.reset.setDout (some 0x0003)).setErr .eNone).setInputs [assertRst]) := rfl
theorem witness_write_sets : (Instr.encsp 0 ≠ .nop ∧ (after (.encsp 0) withTout).map State.err = some .eNone) ∧
    (Instr.dect ≠ .nop ∧ (after .dect withTout).map State.err = some .eEmpty) := by decide
theorem witness_read_sets : Instr.dect ≠ .nop ∧ (loaded 1 2 true).tmsb = { loaded 1 2 true with dout := some 5 }.tmsb ∧
    (after .dect (loaded 1 2 true)).isSome = true ∧
    (after .dect { loaded 1 2 true with dout := some 5 }).isSome = true := by decide
theorem witness_clr_then_dect : exec .clr withTout = .next State.reset := rfl
theorem witness_byte_commands : Instr.ldid 0xFF ∈
    [Instr.ldcfg 0xFF, .ldstat 0xFF, .ldtmsb 0xFF, .ldtlsb 0xFF, .ldhyst 0xFF, .ldid 0xFF] := by decide
theorem witness_word_signs : (0x7FFF : Word).toNat < 32768 ∧ 32768 ≤ (0x8000 : Word).toNat := by decide
theorem witness_sign_order : (0x7FFE : Word).getLsbD 15 = false ∧ (0x7FFF : Word).getLsbD 15 = false ∧
    ((0x7FFE : Word) &&& 0x7FFF).toNat < ((0x7FFF : Word) &&& 0x7FFF).toNat ∧
    (0x8000 : Word).getLsbD 15 = true ∧ (0x8001 : Word).getLsbD 15 = true ∧
    ((0x8000 : Word) &&& 0x7FFF).toNat < ((0x8001 : Word) &&& 0x7FFF).toNat := by decide
theorem witness_collisions : (0x0007 : Word).toNat % 8 = 7 ∧ (0x0000 : Word) ≠ 0x8000 ∧
    val128 .sixteenBit 0x0000 = val128 .sixteenBit 0x8000 ∧ val128 .thirteenBit 0x0008 = val128 .thirteenBit 0x000F ∧
    val128 .thirteenBit 0x0007 = val128 .thirteenBit 0x8007 := by decide
theorem witness_dect : ((loaded 0x80 0x80 true).tmsb = some 0x80 ∧ (loaded 0x80 0x80 true).tlsb = some 0x80 ∧
      (loaded 0x80 0x80 true).flags.res = some true) ∧
    { loaded 0 0 true with tmsb := none }.tmsb = none ∧ { loaded 0 0 true with tlsb := none }.tlsb = none ∧
    { loaded 0 0 true with flags := Flags.empty }.flags.res = none := by decide
theorem witness_negative_zero :
    ((loaded 0x80 0x00 true).tmsb = some 0x80 ∧ (0x80#8 ++ 0x00#8 : Word) = 0x8000) ∧
    (false ≠ (loaded 0x80 0x07 false).params.res16Cfg7 ∧ 0x8000 ≤ (0x80#8 ++ 0x07#8).toNat ∧
      (0x80#8 ++ 0x07#8).toNat ≤ 0x8007) := by decide
theorem witness_encsp_in_range :
    (-2621440 ≤ (0xFFD80000 : QWord).toInt ∧ (0xFFD80000 : QWord).toInt ≤ 8192000 ∧
      (5120 : Int) = (|(0xFFD80000 : QWord).toInt| + 256) / 512 ∧ (0xFFD80000 : QWord).toInt < 0 ∧
      (0x9400 : Word).toNat = 0x8000 + 5120) ∧
    ((0x007D0000 : QWord).toInt = 8192000 ∧ (16000 : Int) = (|(0x007D0000 : QWord).toInt| + 256) / 512 ∧
      (0x3E80 : Word).toNat = 16000) ∧ evenTies.params.tie = .halfToEven := by decide
theorem witness_encsp_out_of_range : (0xFFD7FFFF : QWord).toInt < -2621440 ∧ 8192000 < (0x007D0001 : QWord).toInt := by
  decide
theorem witness_encsp_refines : -40 ≤ degreesOfQ 0xFFD80000 ∧ degreesOfQ 0xFFD80000 ≤ 125 ∧
    -40 ≤ degreesOfQ 0x007D0000 ∧ degreesOfQ 0x007D0000 ≤ 125 := by
  have h1 : sintQ 0xFFD80000 = -2621440 := by decide
  have h2 : sintQ 0x007D0000 = 8192000 := by decide
  simp only [degreesOfQ, h1, h2]
  norm_num
theorem witness_round : (0 : ℚ) ≤ 1 / 2 ∧ ((3200 : ℚ) + 1 / 2 = ((3200 : Nat) : ℚ) + 1 / 2) := by norm_num
theorem witness_enc128 : (0 : ℚ) < 1 ∧ enc128 .halfToEven 1 = some 0x0080 ∧ (1 : ℚ) * 128 = ((128 : Int) : ℚ) := by
  refine ⟨by norm_num, ?_, by norm_num⟩
  have h : (128 : Int).toNat = 128 := rfl
  norm_num [enc128, roundTie, scale16, h]
  rfl
theorem witness_enc128_range : |(32767 / 128 : ℚ) * 128| ≤ 32767 := by norm_num
theorem witness_tiny_negative :
    (-256 < (0xFFFFFF01 : QWord).toInt ∧ (0xFFFFFF01 : QWord).toInt < 0) ∧
    (-256 < (0xFFFFFFFF : QWord).toInt ∧ (0xFFFFFFFF : QWord).toInt < 0) ∧
    ((0xFFFFFF00 : QWord).toInt = -256 ∧ evenTies.params.tie = .halfToEven) ∧ (0 : QWord).toInt = 0 ∧
    (-2621440 ≤ (0xFFD80000 : QWord).toInt ∧ (0xFFD80000 : QWord).toInt < 0) ∧
    (0 ≤ (0x007D0000 : QWord).toInt ∧ (0x007D0000 : QWord).toInt ≤ 8192000) := by decide
theorem witness_setpoint_round_trip : (0xFFD80000 : QWord).toInt = -5120 * 512 ∧ (0x007D0000 : QWord).toInt = 16000 * 512 := by
  decide
/-- V-RT: words inside the range at its ends, negative zero, and the words just outside. -/
theorem witness_setpoint_read_back :
    (after (.decsp 0x803E) .reset).map State.val = some (some 0x3E80) ∧
    (after (.encsp (tc32 ((0x3E80 : Word).toInt * 512))) .reset).isSome = true ∧
    (swap16 0x803E).toNat ≤ 0x3E80 ∧ (swap16 0x0180).toNat = 0x8001 ∧ (swap16 0x0094).toNat = 0x9400 ∧
    swap16 0x0080 = 0x8000 ∧ 0x3E80 < (swap16 0x813E).toNat ∧ (swap16 0x813E).toNat < 0x8000 ∧
    0x9400 < (swap16 0x0194).toNat := by decide
theorem witness_enchy :
    (0x000F0000 : QWord).toInt = ((15 : Nat) : Int) * 65536 ∧
    ((0xFFFF8000 : QWord).toInt < 0 ∧ State.reset.params.hystCheckOrder = .rangeFirst) ∧
    (983040 < (0x00100000 : QWord).toInt ∧ (0x00100000 : QWord).toInt % 65536 = 0) ∧
    ((0x00000001 : QWord).toInt % 65536 ≠ 0 ∧ 0 ≤ (0x00000001 : QWord).toInt ∧ (0x00000001 : QWord).toInt ≤ 983040) ∧
    ((0x000F0001 : QWord).toInt % 65536 ≠ 0 ∧ wholeFirst.params.hystCheckOrder = .wholeFirst) := by decide
/-- P4: every code from the reset state. -/
theorem witness_error_causes :
    (decode 0xC00000000 ≠ some .nop ∧ (stepped (presented 0xC00000000)).map errPort = some 1) ∧
    (decode 0x800000000 ≠ some .nop ∧ (stepped (presented 0x800000000)).map errPort = some 2) ∧
    (decode 0xA007E0000 ≠ some .nop ∧ (stepped (presented 0xA007E0000)).map errPort = some 3) ∧
    (decode 0xB00038000 ≠ some .nop ∧ (stepped (presented 0xB00038000)).map errPort = some 4) := by decide
/-- R81, R86, R88, R89 at the ends of the ranges, and a hysteresis value with both faults under both orders. -/
theorem witness_error_causes_at_the_ends :
    (stepped (presented 0xA007D0000)).map errPort = some 0 ∧ (stepped (presented 0xA007D0001)).map errPort = some 3 ∧
    (stepped (presented 0xAFFD80000)).map errPort = some 0 ∧ (stepped (presented 0xAFFD7FFFF)).map errPort = some 3 ∧
    (stepped (presented 0xB000F0000)).map errPort = some 0 ∧ (stepped (presented 0xB00100000)).map errPort = some 3 ∧
    (stepped (presented 0xB00000001)).map errPort = some 4 ∧ (stepped (presented 0xB000F0001)).map errPort = some 3 ∧
    (stepped (wholeFirst.setInputs [present 0xB000F0001])).map errPort = some 4 := by decide
theorem witness_not_sticky : Instr.ldid 0 ≠ .nop := by decide
theorem witness_latches_change :
    (stepped (presented 0x300000001)).map State.tmsb = some (some 1) ∧
    (stepped (presented 0x400000001)).map State.tlsb = some (some 1) ∧
    (stepped (presented 0x100000000)).map (fun t => t.flags.res) = some (some false) := by decide
theorem witness_values_change :
    (stepped (presented 0xA00000000)).map State.tout = some (some 0) ∧
    (stepped (presented 0x900000000)).map State.val = some (some 0) := by decide
theorem witness_rejected :
    (DriverWrite.command (.writeSetpoint .high 0x007E0000) = some (.encsp 0x007E0000) ∧
      (after (.encsp 0x007E0000) withTout).map State.err = some .eRange) ∧
    (DriverWrite.command (.writeSetpoint .high 0x007D0000) = some (.encsp 0x007D0000) ∧
      (after (.encsp 0x007D0000) .reset).map (DriverWrite.busAccesses (.writeSetpoint .high 0x007D0000)) =
        some [.write16 (.setpoint .high) 0x803E]) ∧
    (DriverWrite.command (.writeHysteresis 0x00030000) = some (.enchy 0x00030000) ∧
      (after (.enchy 0x00030000) .reset).map (DriverWrite.busAccesses (.writeHysteresis 0x00030000)) =
        some [.write8 .hyst 0x03]) := by decide
/-- The state that has exactly the commands of a reading operation, then `rst`, waiting. -/
def readWaiting (op : DriverRead) : State := State.reset.setInputs (presentedBy op.steps ++ [assertRst])
/-- P1: the words of `read_temperature`. -/
theorem witness_driver_read_temperature :
    (readWaiting (.readTemperature 0x80 0x0C 0x8F)).inputs =
      [present 0x100000080, present 0x30000000C, present 0x40000008F, present 0x800000000, assertRst] := by decide
/-- The other reading operations of R43, each with its one word. -/
theorem witness_driver_read_others :
    (readWaiting (.adcReady 0x80)).inputs = [present 0x200000080, assertRst] ∧
    (readWaiting (.readAlarmFlags 0x8D0C)).inputs = [present 0x500008D0C, assertRst] ∧
    (readWaiting (.readStatus 0x7F)).inputs = [present 0x20000007F, assertRst] ∧
    (readWaiting (.readConfiguration 0x01)).inputs = [present 0x100000001, assertRst] ∧
    (readWaiting (.readSetpoint .crit 0x0094)).inputs = [present 0x900000094, assertRst] ∧
    (readWaiting (.readHysteresis 0x03)).inputs = [present 0x600000003, assertRst] ∧
    (readWaiting (.readDeviceId 0xCB)).inputs = [present 0x7000000CB, assertRst] ∧
    (readWaiting (.reset 0x00)).inputs = [present 0x100000000, assertRst] := by decide
/-- R43: the result of `read_device_id` is `DOUT` and `IDOK`. -/
theorem test_read_device_id_result :
    DriverRead.resultPorts (.readDeviceId 0xCB) = [.dout, .flag .idok] ∧
    (stepped (readWaiting (.readDeviceId 0xCB))).map (fun t => (t.dout, t.flags.idok)) =
      some (some 0x00CB, some true) := by decide
theorem witness_ports : (match readPort withTout .tout with | .ok x => x | .error _ => 0) = 0x803E ∧
    (match readPort (loaded 0 0 true) (.flag .res) with | .ok x => x | .error _ => 0) = 1 ∧
    (match readPort withTout .val with | .ok _ => none | .error e => some e) = some (.emptyOutput .val) := by decide
theorem witness_flags_port : flagsPort { State.reset with flags :=
    ⟨some true, some false, some true, some false, some true, some false, some true, some false⟩ } = some 0xAA := by decide
theorem witness_sound_state : State.Inv (withTout.setInputs [present 0x900000094]) ∧
    (stepped (withTout.setInputs [present 0x900000094])).map State.val = some (some 0xEC00) := by
  refine ⟨?_, by decide⟩
  constructor <;> simp [withTout, State.reset, Flags.empty, State.setInputs]
  decide

end Sys2Proof.Tests
end

section
/-! The steps of the block over all states (10_state.md): what each command can do to the registers, said once, and the
statements that follow from it. -/

namespace Sys2Proof.Machine

/-! ## The shared operations as next states -/

/-- The state a load leaves (R95). -/
def State.routed (w : Word) (fl : Flags) (s : State) : State :=
  ((s.setFlags fl).setDout (some w)).setErr .eNone

/-- The state a completed decode leaves (R72, R73). -/
def State.decoded (r : Resolution) (w : Word) (s : State) : State :=
  (((s.setVal (some (tc16 (val128 r w)))).setFlags
    { s.flags with neg := some (flagNeg w) }).setDout (some w)).setErr .eNone

/-- The state a completed encode leaves (R86, R88). -/
def State.encoded (w : Word) (t : Option Word) (s : State) : State :=
  ((s.setDout (some w)).setTout t).setErr .eNone

/-- The state an error leaves (R121). -/
def State.raised (e : ErrorCode) (emptied : List Reg) (s : State) : State :=
  (emptied.foldl State.emptyReg s).setErr e

theorem route_eq_routed (w : Word) (fl : Flags) (s : State) : route w fl s = .next (s.routed w fl) := rfl

theorem decodeWord_eq_decoded (r : Resolution) (w : Word) (s : State) :
    decodeWord r w s = .next (s.decoded r w) := rfl

theorem putEncoded_eq_encoded (w : Word) (t : Option Word) (s : State) :
    putEncoded w t s = .next (s.encoded w t) := rfl

theorem raise_eq_raised (e : ErrorCode) (rs : List Reg) (s : State) : raise e rs s = .next (s.raised e rs) := rfl

/-! ## What a command can do -/

/-- `Effect s i t`: command `i` takes `s` to `t`, one constructor for each way a command can end. -/
inductive Effect (s : State) : Instr → State → Prop
  | nop : Effect s .nop s
  | ldcfg (b : Byte) : Effect s (.ldcfg b)
      (s.routed (zext16 b) { s.flags with res := some (flagRes b), cfgz := some (flagCfgz b) })
  | ldstat (b : Byte) : Effect s (.ldstat b) (s.routed (zext16 b) { s.flags with rdy := some (flagRdy b) })
  | ldtmsb (b : Byte) : Effect s (.ldtmsb b) ((s.setTmsb (some b)).routed (zext16 b) s.flags)
  | ldtlsb (b : Byte) : Effect s (.ldtlsb b) ((s.setTlsb (some b)).routed (zext16 b) s.flags)
  | ldalrm (w : Word) : Effect s (.ldalrm w)
      (s.routed (swap16 w) { s.flags with
        alo := some (flagAlo (swap16 w)), ahi := some (flagAhi (swap16 w)), acr := some (flagAcr (swap16 w)) })
  | ldhyst (b : Byte) : Effect s (.ldhyst b) (s.routed (zext16 b) s.flags)
  | ldid (b : Byte) : Effect s (.ldid b) (s.routed (zext16 b) { s.flags with idok := some (flagIdok b) })
  | dect (m l : Byte) (res : Bool) (hm : s.tmsb = some m) (hl : s.tlsb = some l) (hr : s.flags.res = some res) :
      Effect s .dect (s.decoded (resolutionOf s.params res) (joinBytes m l))
  | dectMissing (h : s.tmsb = none ∨ s.tlsb = none ∨ s.flags.res = none) :
      Effect s .dect (s.raised .eEmpty dectDestinations)
  | decsp (w : Word) : Effect s (.decsp w) (s.decoded .sixteenBit (swap16 w))
  | encsp (q : QWord) (h : setpointOutOfRange (sintQ q) = false) : Effect s (.encsp q)
      (s.encoded (setpointWord s.params.tie (sintQ q)) (some (swap16 (setpointWord s.params.tie (sintQ q)))))
  | encspRange (q : QWord) (h : setpointOutOfRange (sintQ q) = true) :
      Effect s (.encsp q) (s.raised .eRange encodeDestinations)
  | enchy (q : QWord) (h : hystError s.params.hystCheckOrder q = none) :
      Effect s (.enchy q) (s.encoded (zext16 (hystByteOfQ q)) none)
  | enchyError (q : QWord) (e : ErrorCode) (h : hystError s.params.hystCheckOrder q = some e) :
      Effect s (.enchy q) (s.raised e encodeDestinations)
  | clr : Effect s .clr s.resetBlock

/-- Every command ends in one of those ways. -/
theorem exists_effect (i : Instr) (s : State) : ∃ t, Effect s i t ∧ exec i s = .next t := by
  cases i with
  | nop => exact ⟨_, .nop, rfl⟩
  | ldcfg b => exact ⟨_, .ldcfg b, rfl⟩
  | ldstat b => exact ⟨_, .ldstat b, rfl⟩
  | ldtmsb b => exact ⟨_, .ldtmsb b, rfl⟩
  | ldtlsb b => exact ⟨_, .ldtlsb b, rfl⟩
  | ldalrm w => exact ⟨_, .ldalrm w, rfl⟩
  | ldhyst b => exact ⟨_, .ldhyst b, rfl⟩
  | ldid b => exact ⟨_, .ldid b, rfl⟩
  | dect =>
    obtain ⟨m, l, res, hm, hl, hr, he⟩ | ⟨h, he⟩ := execDect_cases s
    · exact ⟨_, .dect m l res hm hl hr, he⟩
    · exact ⟨_, .dectMissing h, he⟩
  | decsp w => exact ⟨_, .decsp w, rfl⟩
  | encsp q =>
    obtain ⟨h, he⟩ | ⟨h, he⟩ := execEncsp_cases q s
    · exact ⟨_, .encspRange q h, he⟩
    · exact ⟨_, .encsp q h, he⟩
  | enchy q =>
    obtain ⟨e, h, he⟩ | ⟨h, he⟩ := execEnchy_cases q s
    · exact ⟨_, .enchyError q e h, he⟩
    · exact ⟨_, .enchy q h, he⟩
  | clr => exact ⟨_, .clr, rfl⟩

/-- Each of those ways is what the command's meaning answers. -/
theorem Effect.exec_eq {s t : State} {i : Instr} (h : Effect s i t) : exec i s = .next t := by
  cases h with
  | dect m l res hm hl hr => simp [exec, execDect, hm, hl, hr, decodeWord_eq_decoded]
  | dectMissing h =>
    obtain ⟨m, l, res, hm, hl, hr, -⟩ | ⟨-, he⟩ := execDect_cases s
    · simp [hm, hl, hr] at h
    · exact he
  | encsp q h => simp [exec, execEncsp, h, putEncoded_eq_encoded]
  | encspRange q h => simp [exec, execEncsp, h, raise_eq_raised]
  | enchy q h => simp [exec, execEnchy, h, putEncoded_eq_encoded]
  | enchyError q e h => simp [exec, execEnchy, h, raise_eq_raised]
  | _ => rfl

/-- A command ends in one way only. -/
theorem Effect.unique {s t u : State} {i : Instr} (ht : Effect s i t) (hu : Effect s i u) : t = u :=
  Host.Outcome.next.inj (ht.exec_eq.symm.trans hu.exec_eq)

/-- The effects of a command are its meaning. -/
theorem exec_eq_next_iff {i : Instr} {s t : State} : exec i s = .next t ↔ Effect s i t := by
  refine ⟨fun h => ?_, Effect.exec_eq⟩
  obtain ⟨u, hu, he⟩ := exists_effect i s
  rw [he] at h
  cases h
  exact hu

theorem exec_answers (i : Instr) (s : State) : ∃ t, exec i s = .next t := by
  obtain ⟨t, -, h⟩ := exists_effect i s
  exact ⟨t, h⟩

/-- No command takes a sample or changes a parameter (R26). -/
theorem exec_inputs_params {i : Instr} {s t : State} (h : exec i s = .next t) :
    t.inputs = s.inputs ∧ t.params = s.params := by
  cases exec_eq_next_iff.1 h <;> exact ⟨rfl, rfl⟩

/-- What waits on the input ports has no part in what a command does. -/
theorem exec_setInputs {i : Instr} {s t : State} (h : exec i s = .next t) (l : List PortInput) :
    exec i (s.setInputs l) = .next (t.setInputs l) := by
  rw [exec_eq_next_iff] at h ⊢
  cases h <;> constructor <;> assumption

/-- The code in `ERR` has no part in what a command other than NOP does (R20, R127). -/
theorem exec_setErr {i : Instr} (hi : i ≠ .nop) (s : State) (e : ErrorCode) :
    exec i (s.setErr e) = exec i s := by
  obtain ⟨t, ht, he⟩ := exists_effect i s
  rw [he, exec_eq_next_iff]
  cases ht with
  | nop => exact absurd rfl hi
  | _ => constructor <;> assumption

/-! ## What a step does with each kind of sample (R10, R11, R140) -/

theorem step_of_no_input {s : State} (hin : s.inputs = []) : step s = .next s := by
  simp [step, takeInput_nil hin]

theorem step_of_rst {s : State} {p : PortInput} {rest : List PortInput} (hin : s.inputs = p :: rest)
    (hr : p.rst = true) : step s = .next (s.setInputs rest).resetBlock := by
  simp [step, takeInput_cons hin, PortInput.event, hr]

theorem step_of_nothing_presented {s : State} {p : PortInput} {rest : List PortInput} (hin : s.inputs = p :: rest)
    (hr : p.rst = false) (hv : p.cmdValid = false) : step s = .next (s.setInputs rest) := by
  simp [step, takeInput_cons hin, PortInput.event, hr, hv]

theorem step_of_word {s : State} {p : PortInput} {rest : List PortInput} (hin : s.inputs = p :: rest)
    (hr : p.rst = false) (hv : p.cmdValid = true) : step s = runWord p.cmd (s.setInputs rest) := by
  simp [step, takeInput_cons hin, PortInput.event, hr, hv]

theorem runWord_of_decode {w : CommandWord} {i : Instr} (h : decode w = some i) (s : State) :
    runWord w s = exec i s := by
  simp [runWord, h]

theorem runWord_of_illegal {w : CommandWord} (h : decode w = none) (s : State) :
    runWord w s = .next (s.setErr .eIllcmd) := by
  simp [runWord, h, raiseIllegal_eq]

/-- What waits on the input ports has no part in what a presented word does. -/
theorem runWord_setInputs {w : CommandWord} {s t : State} (h : runWord w s = .next t) (l : List PortInput) :
    runWord w (s.setInputs l) = .next (t.setInputs l) := by
  cases hd : decode w with
  | none =>
    rw [runWord_of_illegal hd] at h ⊢
    cases h
    rfl
  | some i =>
    rw [runWord_of_decode hd] at h ⊢
    exact exec_setInputs h l

/-! ## Read and write sets (R28) -/

/-- The registers R28 lists for a command, in any of its three columns of destinations. -/
def touchedBy (i : Instr) : List Reg := writesOf i ++ clearsOf i ++ emptiedOnError i

theorem mem_allRegs (r : Reg) : r ∈ allRegs := by
  cases r with
  | flag f => cases f <;> decide
  | _ => decide

/-- A fact about every register is thirteen facts. -/
theorem forall_reg {P : Reg → Prop} : (∀ r, P r) ↔ ∀ r ∈ allRegs, P r :=
  ⟨fun h r _ => h r, fun h r => h r (mem_allRegs r)⟩

theorem State.get_setInputs (s : State) (l : List PortInput) (r : Reg) : (s.setInputs l).get r = s.get r := by
  cases r <;> rfl

theorem State.get_setErr (s : State) (e : ErrorCode) (r : Reg) : (s.setErr e).get r = s.get r := by
  cases r <;> rfl

theorem State.get_resetBlock (s : State) (r : Reg) : s.resetBlock.get r = none := by
  cases r <;> simp [State.get]

/-- Two states agree on a register of values exactly where they agree on its number. -/
theorem map_toNat_inj {n : Nat} {a b : Option (BitVec n)} : a.map BitVec.toNat = b.map BitVec.toNat ↔ a = b :=
  (Option.map_injective fun _ _ => BitVec.eq_of_toNat_eq).eq_iff

theorem map_boolToNat_inj {a b : Option Bool} : a.map Bool.toNat = b.map Bool.toNat ↔ a = b :=
  (Option.map_injective (by decide : Function.Injective Bool.toNat)).eq_iff

/-- A command other than NOP either raises, and then empties its "emptied on error" list and nothing else, or completes
with its own row of R28. -/
theorem Effect.raised_or_completed {s t : State} {i : Instr} (hi : i ≠ .nop) (h : Effect s i t) :
    (∃ e, e ≠ .eNone ∧ emptiedOnError i ≠ [] ∧ t = s.raised e (emptiedOnError i)) ∨
    (t.err = .eNone ∧ (∀ r ∈ writesOf i, (t.get r).isSome = true) ∧ (∀ r ∈ clearsOf i, t.get r = none) ∧
      ∀ r, r ∉ writesOf i → r ∉ clearsOf i → t.get r = s.get r) := by
  cases h with
  | nop => exact absurd rfl hi
  | dectMissing => exact .inl ⟨_, by decide, by simp [emptiedOnError], rfl⟩
  | encspRange => exact .inl ⟨_, by decide, by simp [emptiedOnError], rfl⟩
  | enchyError q e h =>
    refine .inl ⟨e, ?_, by simp [emptiedOnError], rfl⟩
    rintro rfl
    simpa using hystError_cases h
  | clr =>
    exact .inr ⟨rfl, by simp [writesOf], fun r _ => s.get_resetBlock r, fun r _ hr => absurd (mem_allRegs r) hr⟩
  | _ =>
    refine .inr ⟨rfl, ?_, ?_, ?_⟩
    · simp [writesOf, State.get, Flags.get, State.routed, State.decoded, State.encoded]
    · simp [clearsOf, State.get, State.encoded]
    · rw [forall_reg]
      simp [allRegs, flagRegs, writesOf, clearsOf, State.get, Flags.get, State.routed, State.decoded, State.encoded]

/-- A register R28 does not list for a command keeps its value through it. -/
theorem exec_get_of_not_touched {i : Instr} {s t : State} (h : exec i s = .next t) {r : Reg}
    (hr : r ∉ touchedBy i) : t.get r = s.get r := by
  simp only [touchedBy, List.mem_append, not_or] at hr
  obtain ⟨⟨hw, hc⟩, he⟩ := hr
  by_cases hi : i = .nop
  · subst hi
    injection h with h
    rw [h]
  · obtain ⟨e, -, -, rfl⟩ | ⟨-, -, -, hframe⟩ := (exec_eq_next_iff.1 h).raised_or_completed hi
    · obtain ⟨-, -, hframe, -⟩ := raise_spec (raise_eq_raised e (emptiedOnError i) s)
      exact hframe r he
    · exact hframe r hw hc

/-- Where a step changes a register, the sample it takes asserts `rst` or presents a command R28 lists the register for.
`Q` is what is to be shown of a sample with such a command. -/
theorem step_changes_register {s t : State} (h : step s = .next t) {r : Reg} (hr : t.get r ≠ s.get r)
    {Q : PortInput → Prop} (hQ : ∀ p i, decode p.cmd = some i → r ∈ touchedBy i → Q p) :
    ∃ p rest, s.inputs = p :: rest ∧ (p.rst = true ∨ (p.cmdValid = true ∧ Q p)) := by
  have hsame : ∀ {u : State}, step s = .next u → u.get r ≠ s.get r := fun hu =>
    Host.Outcome.next.inj (h.symm.trans hu) ▸ hr
  obtain ⟨-, hs⟩ | ⟨p, rest, hin, hp⟩ := step_cases s
  · exact absurd rfl (hsame hs)
  refine ⟨p, rest, hin, ?_⟩
  obtain ⟨hrst, -⟩ | ⟨-, -, hs⟩ | ⟨-, hv, i, hd, hs⟩ | ⟨-, -, -, hs⟩ := hp
  · exact .inl hrst
  · exact absurd (s.get_setInputs rest r) (hsame hs)
  · refine .inr ⟨hv, hQ p i hd ?_⟩
    by_contra hn
    obtain ⟨u, hu⟩ := exec_answers i (s.setInputs rest)
    exact hsame (hs.trans hu) ((exec_get_of_not_touched hu hn).trans (s.get_setInputs rest r))
  · exact absurd (((s.setInputs rest).get_setErr _ r).trans (s.get_setInputs rest r)) (hsame hs)

theorem tmsb_mem_touchedBy {i : Instr} : .tmsb ∈ touchedBy i → i = .clr ∨ ∃ b, i = .ldtmsb b := by
  cases i <;> simp [touchedBy, writesOf, clearsOf, emptiedOnError]

theorem tlsb_mem_touchedBy {i : Instr} : .tlsb ∈ touchedBy i → i = .clr ∨ ∃ b, i = .ldtlsb b := by
  cases i <;> simp [touchedBy, writesOf, clearsOf, emptiedOnError]

theorem res_mem_touchedBy {i : Instr} : .flag .res ∈ touchedBy i → i = .clr ∨ ∃ b, i = .ldcfg b := by
  cases i <;> simp [touchedBy, writesOf, clearsOf, emptiedOnError]

theorem tout_mem_touchedBy {i : Instr} :
    .tout ∈ touchedBy i → i = .clr ∨ ∃ q, i = .encsp q ∨ i = .enchy q := by
  cases i <;> simp [touchedBy, writesOf, clearsOf, emptiedOnError]

theorem val_mem_touchedBy {i : Instr} : .val ∈ touchedBy i → i = .clr ∨ i = .dect ∨ ∃ w, i = .decsp w := by
  cases i <;> simp [touchedBy, writesOf, clearsOf, emptiedOnError]

/-- DECT reads the two latches and the resolution, and nothing else. -/
theorem agree_of_dect_reads {s u : State} (h : ∀ r ∈ readsOf .dect, s.get r = u.get r) :
    s.tmsb = u.tmsb ∧ s.tlsb = u.tlsb ∧ s.flags.res = u.flags.res :=
  ⟨map_toNat_inj.1 (h .tmsb (by decide)), map_toNat_inj.1 (h .tlsb (by decide)),
    map_boolToNat_inj.1 (h (.flag .res) (by decide))⟩

/-- An error leaves the registers it empties the same, whatever the state. -/
theorem raised_agree {rs rs' : List Reg} (hsub : rs' ⊆ rs) (e : ErrorCode) (s u : State) :
    (s.raised e rs).err = (u.raised e rs).err ∧ ∀ r ∈ rs', (s.raised e rs).get r = (u.raised e rs).get r := by
  obtain ⟨-, hs, -⟩ := raise_spec (raise_eq_raised e rs s)
  obtain ⟨-, hu, -⟩ := raise_spec (raise_eq_raised e rs u)
  exact ⟨rfl, fun r hr => by rw [hs r (hsub hr), hu r (hsub hr)]⟩

/-- Completed decodes of one word leave `VAL`, `NEG` and `DOUT` the same, whatever the state. -/
theorem decoded_agree (res : Resolution) (w : Word) (s u : State) :
    (s.decoded res w).err = (u.decoded res w).err ∧
      ∀ r ∈ [Reg.val, .flag .neg, .dout], (s.decoded res w).get r = (u.decoded res w).get r := by
  simp [State.decoded, State.get, Flags.get]

/-- Completed encodes of one word leave `DOUT` and `TOUT` the same, whatever the state. -/
theorem encoded_agree (w : Word) (t : Option Word) (s u : State) :
    (s.encoded w t).err = (u.encoded w t).err ∧
      ∀ r ∈ [Reg.dout, .tout], (s.encoded w t).get r = (u.encoded w t).get r := by
  simp [State.encoded, State.get]

theorem touchedBy_dect : touchedBy .dect ⊆ [.val, .flag .neg, .dout] := by decide

theorem touchedBy_decsp (w : Word) : touchedBy (.decsp w) ⊆ [.val, .flag .neg, .dout] := List.Subset.refl _

theorem touchedBy_encsp (q : QWord) : touchedBy (.encsp q) ⊆ [.dout, .tout] := by
  simp [touchedBy, writesOf, clearsOf, emptiedOnError]

theorem touchedBy_enchy (q : QWord) : touchedBy (.enchy q) ⊆ [.dout, .tout] := by
  simp [touchedBy, writesOf, clearsOf, emptiedOnError]

/-- `ERR` and the registers R28 lists for command `i` are the same in both states. -/
def AgreeOnTouched (i : Instr) (t t' : State) : Prop :=
  t.err = t'.err ∧ ∀ r ∈ touchedBy i, t.get r = t'.get r

/-- From two states that agree on what a command reads it leaves what R28 lists the same. -/
theorem Effect.agreeOnTouched {i : Instr} {s u t t' : State} (hi : i ≠ .nop)
    (hreads : ∀ r ∈ readsOf i, s.get r = u.get r) (hpar : s.params = u.params)
    (ht : Effect s i t) (hu : Effect u i t') : AgreeOnTouched i t t' := by
  suffices h : ∃ t'', Effect u i t'' ∧ AgreeOnTouched i t t'' by
    obtain ⟨t'', hu'', ha⟩ := h
    exact hu''.unique hu ▸ ha
  cases ht with
  | nop => exact absurd rfl hi
  | dect m l res hm hl hr =>
    obtain ⟨htm, htl, hres⟩ := agree_of_dect_reads hreads
    refine ⟨_, .dect m l res (htm ▸ hm) (htl ▸ hl) (hres ▸ hr), ?_⟩
    obtain ⟨herr, hget⟩ := decoded_agree (resolutionOf s.params res) (joinBytes m l) s u
    exact hpar ▸ ⟨herr, fun r h => hget r (touchedBy_dect h)⟩
  | dectMissing h =>
    obtain ⟨htm, htl, hres⟩ := agree_of_dect_reads hreads
    exact ⟨_, .dectMissing (htm ▸ htl ▸ hres ▸ h), raised_agree touchedBy_dect _ s u⟩
  | decsp w =>
    obtain ⟨herr, hget⟩ := decoded_agree .sixteenBit (swap16 w) s u
    exact ⟨_, .decsp w, herr, fun r h => hget r (touchedBy_decsp w h)⟩
  | encsp q h =>
    refine ⟨_, .encsp q h, ?_⟩
    rw [← hpar]
    obtain ⟨herr, hget⟩ := encoded_agree (setpointWord s.params.tie (sintQ q))
      (some (swap16 (setpointWord s.params.tie (sintQ q)))) s u
    exact ⟨herr, fun r h => hget r (touchedBy_encsp q h)⟩
  | encspRange q h => exact ⟨_, .encspRange q h, raised_agree (touchedBy_encsp q) _ s u⟩
  | enchy q h =>
    obtain ⟨herr, hget⟩ := encoded_agree (zext16 (hystByteOfQ q)) none s u
    exact ⟨_, .enchy q (hpar ▸ h), herr, fun r h => hget r (touchedBy_enchy q h)⟩
  | enchyError q e h => exact ⟨_, .enchyError q e (hpar ▸ h), raised_agree (touchedBy_enchy q) _ s u⟩
  | clr => exact ⟨_, .clr, rfl, fun r _ => by rw [State.get_resetBlock, State.get_resetBlock]⟩
  | _ =>
    refine ⟨t', hu, ?_⟩
    cases hu
    refine ⟨rfl, ?_⟩
    simp [touchedBy, writesOf, clearsOf, emptiedOnError, State.get, Flags.get, State.routed]

/-! ## Sound states -/

/-- `VAL` and `NEG` stand together and agree in sign, and `VAL` is never 0x8000 (R18, R28, R71). -/
def ValNegSound (val : Option Word) (neg : Option Bool) : Prop :=
  (∀ v, val = some v → v ≠ 0x8000) ∧ val.isSome = neg.isSome ∧
  ∀ v n, val = some v → neg = some n → (v.toInt < 0 → n = true) ∧ (0 < v.toInt → n = false)

/-- `RES` and `CFGZ` stand together, and a zero configuration byte has a zero resolution bit (R96). -/
def ResCfgzSound (res cfgz : Option Bool) : Prop :=
  res.isSome = cfgz.isSome ∧ (cfgz = some true → res = some false)

/-- The three alarm fields stand together (R100). -/
def AlarmsSound (alo ahi acr : Option Bool) : Prop :=
  alo.isSome = ahi.isSome ∧ ahi.isSome = acr.isSome

/-- `TOUT` is the swap of a word ENCSP can produce (R17, R86). -/
def ToutSound (tout : Option Word) : Prop := ∀ w, tout = some w → encodedSetpoint (swap16 w) = true

/-- The invariant speaks of four groups of registers, each on its own. -/
theorem State.inv_iff (s : State) : State.Inv s ↔ ValNegSound s.val s.flags.neg ∧
    ResCfgzSound s.flags.res s.flags.cfgz ∧ AlarmsSound s.flags.alo s.flags.ahi s.flags.acr ∧ ToutSound s.tout :=
  ⟨fun ⟨hrange, hvn, hsign, hrc, hcr, hal, hto⟩ => ⟨⟨hrange, hvn, hsign⟩, ⟨hrc, hcr⟩, hal, hto⟩,
   fun ⟨⟨hrange, hvn, hsign⟩, ⟨hrc, hcr⟩, hal, hto⟩ => ⟨hrange, hvn, hsign, hrc, hcr, hal, hto⟩⟩

theorem valNegSound_none : ValNegSound none none := by simp [ValNegSound]
theorem resCfgzSound_none : ResCfgzSound none none := by simp [ResCfgzSound]
theorem toutSound_none : ToutSound none := by simp [ToutSound]

/-- A decoded value fits in 16 bits and is never -32768 (R68). -/
theorem toInt_tc16_val128 (r : Resolution) (w : Word) : (tc16 (val128 r w)).toInt = val128 r w := by
  have h := magnitude128_le r w
  apply toInt_tc16 <;> unfold val128 <;> split <;> omega

theorem valNegSound_decoded (r : Resolution) (w : Word) :
    ValNegSound (some (tc16 (val128 r w))) (some (flagNeg w)) := by
  have hm := magnitude128_le r w
  have hv : val128 r w = if flagNeg w then -(magnitude128 r w : Int) else magnitude128 r w := rfl
  refine ⟨?_, rfl, ?_⟩
  · rintro _ ⟨⟩ h
    have hmin := congrArg BitVec.toInt h
    rw [toInt_tc16_val128, hv, show (0x8000 : Word).toInt = -32768 by decide] at hmin
    split at hmin <;> omega
  · rintro _ _ ⟨⟩ ⟨⟩
    rw [toInt_tc16_val128, hv]
    cases flagNeg w <;> simp

theorem resCfgzSound_loaded (b : Byte) : ResCfgzSound (some (flagRes b)) (some (flagCfgz b)) := by
  refine ⟨rfl, fun h => ?_⟩
  have hb : b = cfgPor := by simpa [flagCfgz] using h
  rw [hb]
  decide

/-- A setpoint in range packs a magnitude of at most 16000, of at most 5120 under the sign bit (R86, R90). -/
theorem encodedSetpoint_setpointWord (tie : Tie) {n : Int} (h : setpointOutOfRange n = false) :
    encodedSetpoint (setpointWord tie n) = true := by
  rw [setpointOutOfRange_eq, decide_eq_false_iff_not] at h
  rw [encodedSetpoint, decide_eq_true_eq, toNat_and_magMask, getLsbD_15_eq, setpointWord]
  by_cases hn : n < 0
  · have hm : setpointMagnitude tie n.natAbs ≤ 5120 := setpointMagnitude_le (by omega)
    simp only [if_pos hn]
    rw [signBit_or_toNat (by omega)]
    simp
    omega
  · have hm : setpointMagnitude tie n.natAbs ≤ 16000 := setpointMagnitude_le (by omega)
    simp only [if_neg hn]
    rw [BitVec.toNat_ofNat, Nat.mod_eq_of_lt (by omega), if_neg (by simp; omega)]
    omega

theorem toutSound_setpoint (tie : Tie) {n : Int} (h : setpointOutOfRange n = false) :
    ToutSound (some (swap16 (setpointWord tie n))) := by
  rintro _ ⟨⟩
  rw [swap16_swap16]
  exact encodedSetpoint_setpointWord tie h

theorem State.inv_resetBlock (s : State) : State.Inv s.resetBlock :=
  (State.inv_iff _).2 ⟨valNegSound_none, resCfgzSound_none, ⟨rfl, rfl⟩, toutSound_none⟩

/-- A command changes at most one group of the invariant's registers, but for CLR. -/
theorem exec_inv {i : Instr} {s t : State} (hs : State.Inv s) (h : exec i s = .next t) : State.Inv t := by
  obtain ⟨hval, hres, hal, hto⟩ := s.inv_iff.1 hs
  rw [State.inv_iff]
  cases exec_eq_next_iff.1 h with
  | ldcfg b => exact ⟨hval, resCfgzSound_loaded b, hal, hto⟩
  | ldalrm w => exact ⟨hval, hres, ⟨rfl, rfl⟩, hto⟩
  | dect m l res => exact ⟨valNegSound_decoded _ _, hres, hal, hto⟩
  | decsp w => exact ⟨valNegSound_decoded _ _, hres, hal, hto⟩
  | dectMissing => exact ⟨valNegSound_none, hres, hal, hto⟩
  | encsp q hq => exact ⟨hval, hres, hal, toutSound_setpoint _ hq⟩
  | encspRange | enchy | enchyError => exact ⟨hval, hres, hal, toutSound_none⟩
  | clr => exact s.resetBlock.inv_iff.1 s.inv_resetBlock
  | nop | ldstat | ldtmsb | ldtlsb | ldhyst | ldid => exact ⟨hval, hres, hal, hto⟩

/-- Every step keeps the invariant. -/
theorem step_inv {s t : State} (hs : State.Inv s) (h : step s = .next t) : State.Inv t := by
  have htaken : ∀ rest, State.Inv (s.setInputs rest) := fun _ => (State.inv_iff _).2 (s.inv_iff.1 hs)
  obtain ⟨-, he⟩ | ⟨p, rest, -, hp⟩ := step_cases s
  · rw [he] at h; cases h; exact hs
  obtain ⟨-, he⟩ | ⟨-, -, he⟩ | ⟨-, -, i, -, he⟩ | ⟨-, -, -, he⟩ := hp <;> rw [he] at h
  · cases h; exact State.inv_resetBlock _
  · cases h; exact htaken rest
  · exact exec_inv (htaken rest) h
  · cases h; exact (State.inv_iff _).2 (s.inv_iff.1 hs)

/-- Every step answers a next state, takes one sample and keeps the parameters. -/
theorem step_answers (s : State) : Answers (step s) fun t => t.inputs = s.inputs.tail ∧ t.params = s.params := by
  obtain ⟨hin, he⟩ | ⟨p, rest, hin, hp⟩ := step_cases s
  · exact ⟨s, he, by rw [hin]; rfl, rfl⟩
  rw [hin]
  obtain ⟨-, he⟩ | ⟨-, -, he⟩ | ⟨-, -, i, -, he⟩ | ⟨-, -, -, he⟩ := hp
  · exact ⟨_, he, rfl, rfl⟩
  · exact ⟨_, he, rfl, rfl⟩
  · obtain ⟨t, ht⟩ := exec_answers i (s.setInputs rest)
    exact ⟨t, he.trans ht, exec_inputs_params ht⟩
  · exact ⟨_, he, rfl, rfl⟩

/-- Where every field is empty every valid bit of the flags port is 0. -/
theorem flagsV_of_flags_empty {s : State} (h : s.flags = Flags.empty) : flagsV s = 0 := by
  simp only [flagsV, h, Flags.get_empty]
  decide

/-- What R27 says of the block after reset. -/
theorem resetBlock_ports (s : State) : (∀ r : Reg, s.resetBlock.get r = none) ∧ errPort s.resetBlock = 0 ∧
    flagsV s.resetBlock = 0 ∧ doutV s.resetBlock = false ∧ toutV s.resetBlock = false ∧
    valV s.resetBlock = false :=
  ⟨s.get_resetBlock, rfl, flagsV_of_flags_empty rfl, rfl, rfl, rfl⟩

/-! ## Ports (R11, R19) -/

theorem forall_flagName {P : FlagName → Prop} : (∀ f, P f) ↔ ∀ f ∈ FlagName.all, P f :=
  ⟨fun h f _ => h f, fun h f => h f f.mem_all⟩

/-- The eight places of R19 are all the bits of the flags port. -/
theorem eq_of_flag_bits {a b : BitVec 8} (h : ∀ f : FlagName, a.getLsbD f.bit = b.getLsbD f.bit) : a = b := by
  have hplace : ∀ k < 8, ∃ f : FlagName, f.bit = k := fun k hk => by
    have : k ∈ FlagName.all.map FlagName.bit := by
      simp [FlagName.all, FlagName.bit]; omega
    obtain ⟨f, -, hf⟩ := List.mem_map.1 this
    exact ⟨f, hf⟩
  apply BitVec.eq_of_getLsbD_eq
  intro k hk
  obtain ⟨f, rfl⟩ := hplace k hk
  exact h f

theorem flagsPort_isSome {s : State} : (flagsPort s).isSome = true ↔ ∀ f : FlagName, (s.flags.get f).isSome = true := by
  rw [forall_flagName, ← List.all_eq_true, flagsPort]
  split <;> simp_all

theorem flagsPort_eq_some {s : State} {v : BitVec 8} :
    flagsPort s = some v ↔ ∀ f : FlagName, s.flags.get f = some (v.getLsbD f.bit) := by
  by_cases hall : ∀ f : FlagName, (s.flags.get f).isSome = true
  · have hport : flagsPort s = some (packFlags fun n => (s.flags.get n).getD false) := by
      rw [flagsPort, if_pos (List.all_eq_true.2 fun f _ => hall f)]
    rw [hport, Option.some_inj]
    constructor
    · rintro rfl f
      rw [getLsbD_packFlags]
      obtain ⟨b, hb⟩ := Option.isSome_iff_exists.1 (hall f)
      simp [hb]
    · intro h
      exact eq_of_flag_bits fun f => by rw [getLsbD_packFlags, h f, Option.getD_some]
  · constructor
    · intro h
      exact absurd (flagsPort_isSome.1 (by rw [h]; rfl)) hall
    · intro h
      exact absurd (fun f => by rw [h f]; rfl) hall

theorem map_toNat_eq_some {n : Nat} {a : Option (BitVec n)} {x : Nat} :
    a.map BitVec.toNat = some x ↔ ∃ w, a = some w ∧ x = w.toNat := by
  simp [eq_comm]

theorem map_boolToNat_eq_some {a : Option Bool} {x : Nat} :
    a.map Bool.toNat = some x ↔ ∃ b, a = some b ∧ x = if b then 1 else 0 := by
  rw [Option.map_eq_some_iff]
  refine exists_congr fun b => and_congr_right fun _ => ?_
  cases b <;> exact eq_comm

/-! ## The statements -/

/-- Settles O55: the invariant is kept by every command, and by taking a sample, by `rst` and by an illegal word. -/
theorem everyStepKeepsTheStateSound : Obligations.EveryStepKeepsTheStateSound :=
  fun _ _ => step_inv

/-- Settles O11: every command ends in one of its effects. -/
theorem everyStepAnswersANextState : Obligations.EveryStepAnswersANextState := fun s =>
  let ⟨t, ht, _⟩ := step_answers s
  ⟨t, ht⟩

/-- Settles O12: neither a command nor reset touches the samples or the parameters. -/
theorem stepTakesOneSampleAndKeepsTheParameters : Obligations.StepTakesOneSampleAndKeepsTheParameters := by
  intro s t h
  obtain ⟨u, hu, hkeep⟩ := step_answers s
  rw [hu] at h
  cases h
  exact hkeep

/-- Settles O13: no command reads the samples that wait. -/
theorem laterSamplesDoNotAffectAStep : Obligations.LaterSamplesDoNotAffectAStep := by
  intro s t p rest rest' h
  cases hr : p.rst with
  | true =>
    rw [step_of_rst rfl hr] at h ⊢
    cases h
    rfl
  | false =>
    cases hv : p.cmdValid with
    | false =>
      rw [step_of_nothing_presented rfl hr hv] at h ⊢
      cases h
      rfl
    | true =>
      rw [step_of_word rfl hr hv] at h ⊢
      exact runWord_setInputs h rest'

/-- Settles O14: a command other than NOP raises or completes, each with its column of R28. -/
theorem commandsWriteExactlyTheirWriteSets : Obligations.CommandsWriteExactlyTheirWriteSets := by
  refine ⟨fun _ => rfl, fun i s t hi h => ?_⟩
  obtain ⟨e, he, hne, rfl⟩ | ⟨herr, hwrites, hclears, hframe⟩ := (exec_eq_next_iff.1 h).raised_or_completed hi
  · obtain ⟨herr, hempty, hframe, -⟩ := raise_spec (raise_eq_raised e (emptiedOnError i) s)
    exact ⟨fun h0 => absurd (herr.symm.trans h0) he, fun _ => ⟨hempty, hframe⟩, fun h0 => absurd h0 hne⟩
  · exact ⟨fun _ => ⟨hwrites, hclears, hframe⟩, fun h0 => absurd herr h0, fun _ => herr⟩

/-- Settles O15: the effect from the second state is the one named by what the first state reads. -/
theorem commandsReadOnlyTheirReadSets : Obligations.CommandsReadOnlyTheirReadSets :=
  fun _ _ _ _ _ hi hreads hpar ht hu =>
    (exec_eq_next_iff.1 ht).agreeOnTouched hi hreads hpar (exec_eq_next_iff.1 hu)

/-- Settles O48: R28 lists TMSB, TLSB and RES for CLR and one load each. -/
theorem latchesAndResolutionChangeOnlyByTheirLoads : Obligations.LatchesAndResolutionChangeOnlyByTheirLoads := by
  intro s t h
  refine ⟨fun hne => ?_, fun hne => ?_, fun hne => ?_⟩
  · refine step_changes_register h (r := .tmsb) (mt map_toNat_inj.1 hne) fun p i hd hi => ?_
    simpa only [hd, Option.some_inj] using tmsb_mem_touchedBy hi
  · refine step_changes_register h (r := .tlsb) (mt map_toNat_inj.1 hne) fun p i hd hi => ?_
    simpa only [hd, Option.some_inj] using tlsb_mem_touchedBy hi
  · refine step_changes_register h (r := .flag .res) (mt map_boolToNat_inj.1 hne) fun p i hd hi => ?_
    simpa only [hd, Option.some_inj] using res_mem_touchedBy hi

/-- Settles O49: R28 lists TOUT for CLR and the encodes, VAL for CLR and the decodes. -/
theorem encodedAndDecodedValuesPersist : Obligations.EncodedAndDecodedValuesPersist := by
  intro s t h
  refine ⟨fun hne => ?_, fun hne => ?_⟩
  · refine step_changes_register h (r := .tout) (mt map_toNat_inj.1 hne) fun p i hd hi => ?_
    simpa only [hd, Option.some_inj] using tout_mem_touchedBy hi
  · refine step_changes_register h (r := .val) (mt map_toNat_inj.1 hne) fun p i hd hi => ?_
    simpa only [hd, Option.some_inj] using val_mem_touchedBy hi

/-- Settles O53: a port reads its register, and a packed word has each field at its bit. -/
theorem portsShowTheRegisters : Obligations.PortsShowTheRegisters := by
  refine ⟨fun s x => ⟨?_, ?_, ?_, fun f => ?_⟩, fun s p e h => (readPort_eq_error.1 h).2, fun s => ⟨rfl, rfl, rfl⟩,
    fun s f => getLsbD_packFlags _ f, fun s v => flagsPort_eq_some, fun s => flagsPort_isSome, rfl, fun s => ?_⟩
  · exact readPort_eq_ok.trans map_toNat_eq_some
  · exact readPort_eq_ok.trans map_toNat_eq_some
  · exact readPort_eq_ok.trans map_toNat_eq_some
  · exact readPort_eq_ok.trans map_boolToNat_eq_some
  · cases h : s.err <;> simp [errPort, h, ErrorCode.code]

/-- Settles O8: the sample read is a command event, and its word decodes. -/
theorem stepRunsTheDecodedCommand : Obligations.StepRunsTheDecodedCommand :=
  fun _ _ _ _ hin hr hv hd => (step_of_word hin hr hv).trans (runWord_of_decode hd _)

/-- Settles O9: the sample read, or the lack of one, is an idle event. -/
theorem stepWithNothingPresentedKeepsTheRegisters : Obligations.StepWithNothingPresentedKeepsTheRegisters :=
  ⟨fun _ hin => step_of_no_input hin, fun _ _ _ hin hr hv => step_of_nothing_presented hin hr hv⟩

/-- Settles O10: each of the three states is one with the block reset. -/
theorem resetAndClrEmptyEveryRegister : Obligations.ResetAndClrEmptyEveryRegister :=
  ⟨resetBlock_ports State.reset, fun _ _ _ hin hr => ⟨_, step_of_rst hin hr, resetBlock_ports _⟩,
    fun s => ⟨_, rfl, resetBlock_ports s⟩⟩

/-- Settles O47: each effect sets `ERR` itself and reads it nowhere. -/
theorem errorCodeIsNotSticky : Obligations.ErrorCodeIsNotSticky :=
  fun _ s e hi => exec_setErr hi s e

/-- Settles O54: the reset state is the block reset in itself. -/
theorem resetStateIsSound : Obligations.ResetStateIsSound := State.reset.inv_resetBlock

end Sys2Proof.Machine
end

section
/-! The host's side (20_memory.md): the byte order of a transport word, and what the driver's operations find in the block
once it has taken their commands. -/

namespace Sys2Proof.Machine

/-! ## Operand forms and fields as arithmetic (R19, R34 to R36, R88) -/

theorem swap16_eq_rotateLeft (x : Word) : swap16 x = x.rotateLeft 8 := by
  apply BitVec.eq_of_getLsbD_eq
  intro k hk
  simp only [swap16, BitVec.getLsbD_append, BitVec.getLsbD_extractLsb', BitVec.getLsbD_rotateLeft]
  by_cases h : k < 8
  · simp [h, Nat.add_comm]
  · simp [h, hk, show k - 8 < 8 by omega]

theorem swap16_joinBytes (m l : Byte) : swap16 (joinBytes m l) = joinBytes l m := by
  apply BitVec.eq_of_toNat_eq
  have hm := m.isLt
  have hl := l.isLt
  rw [swap16_toNat, joinBytes_toNat, joinBytes_toNat]
  omega

theorem zext16_toNat (b : Byte) : (zext16 b).toNat = b.toNat := by
  have hb := b.isLt
  rw [zext16, BitVec.toNat_setWidth, Nat.mod_eq_of_lt (by omega)]

theorem zext16_eq_append (b : Byte) : zext16 b = 0#8 ++ b := by
  apply BitVec.eq_of_toNat_eq
  rw [zext16_toNat, BitVec.toNat_append]
  simp

/-- The byte register takes back the byte `DOUT` shows. -/
theorem setWidth_zext16 (b : Byte) : (zext16 b).setWidth 8 = b := by
  apply BitVec.eq_of_toNat_eq
  rw [BitVec.toNat_setWidth, zext16_toNat, Nat.mod_eq_of_lt b.isLt]

theorem flagRdy_eq (b : Byte) : flagRdy b = decide (b.toNat < 128) := by
  have h := BitVec.msb_eq_decide (x := b)
  have hbit : b.getLsbD busyBit = decide (128 ≤ b.toNat) := by
    simpa [BitVec.msb, BitVec.getMsbD, busyBit] using h
  rw [flagRdy, hbit, ← decide_not]
  exact decide_eq_decide.2 Nat.not_le

theorem flagCfgz_eq (b : Byte) : flagCfgz b = decide (b.toNat = 0) := by
  simp only [flagCfgz, beq_eq_decide, ← BitVec.toNat_inj]
  rfl

theorem flagIdok_eq (b : Byte) : flagIdok b = decide (b.toNat = 203) := by
  simp only [flagIdok, beq_eq_decide, ← BitVec.toNat_inj]
  rfl

/-- The low byte of a swapped word is the high byte of the word. -/
theorem getLsbD_swap16_low (w : Word) {k : Nat} (hk : k < 8) : (swap16 w).getLsbD k = w.getLsbD (8 + k) := by
  rw [swap16_eq_rotateLeft, BitVec.getLsbD_rotateLeft]
  simp [hk]

/-- ENCHY's checks pass a whole number of degrees from 0 to 15 and nothing else (R88). -/
theorem hystError_eq_none {o : HystCheckOrder} {q : QWord} :
    hystError o q = none ↔ 0 ≤ q.toInt ∧ q.toInt ≤ 983040 ∧ q.toInt % 65536 = 0 := by
  simp only [hystError, hystOutOfRange_eq, hystFractional_eq, sintQ, decide_eq_true_eq]
  cases o <;> simp only <;> split_ifs <;> simp <;> omega

/-- A hysteresis value that passes the checks has a byte of at most 15 (R88). -/
theorem hystByteOfQ_le {o : HystCheckOrder} {q : QWord} (h : hystError o q = none) : (hystByteOfQ q).toNat ≤ 15 := by
  obtain ⟨hmin, hmax, -⟩ := hystError_eq_none.1 h
  have hq := BitVec.toInt_eq_toNat_cond q
  have hb : (hystByteOfQ q).toNat = q.toNat / 65536 % 256 := by
    simp [hystByteOfQ, Nat.shiftRight_eq_div_pow]
  rw [hb]
  split at hq <;> omega

/-! ## The writing operations (R45) -/

/-- The two codes an encode can raise are errors, and each has a kind of the source (R133). -/
theorem encodeError_code {e : ErrorCode} (h : e = .eRange ∨ e = .eNonint) :
    e ≠ .eNone ∧ (DriverError.ofCode e).isSome = true := by
  obtain rfl | rfl := h <;> decide

/-- An operation that presents a command makes no bus access unless `ERR = 0`. -/
theorem busAccesses_of_err {op : DriverWrite} {i : Instr} (hop : op.command = some i) {t : State}
    (herr : t.err ≠ .eNone) : op.busAccesses t = [] := by
  cases op with
  | writeConfiguration b => cases hop
  | writeSetpoint | writeHysteresis =>
    simp only [DriverWrite.busAccesses]
    split
    · exact absurd ‹t.err = .eNone› herr
    · rfl

/-- What the host finds after a failed encode: nothing to send, both outputs empty, an error kind to report (R45). -/
theorem rejected_of_raised {op : DriverWrite} {i : Instr} (hop : op.command = some i) {e : ErrorCode}
    (he : e = .eRange ∨ e = .eNonint) (s : State) :
    op.busAccesses (s.raised e encodeDestinations) = [] ∧
      readPort (s.raised e encodeDestinations) .dout = .error (.emptyOutput .dout) ∧
      readPort (s.raised e encodeDestinations) .tout = .error (.emptyOutput .tout) ∧
      (DriverError.ofCode e).isSome = true := by
  obtain ⟨hne, hkind⟩ := encodeError_code he
  exact ⟨busAccesses_of_err hop hne, rfl, rfl, hkind⟩

/-! ## The reading operations (R43, R44) -/

/-- A command's word decodes to the command. -/
theorem decode_encode (i : Instr) : decode (encode i) = some i := by
  rw [encode, decode_append]
  cases i with
  | nop | dect | clr => exact formatN_eq_some.2 ⟨rfl, rfl⟩
  | ldcfg b | ldstat b | ldtmsb b | ldtlsb b | ldhyst b | ldid b => exact formatB_eq_some.2 ⟨b, rfl, rfl⟩
  | ldalrm t | decsp t => exact formatH_eq_some.2 ⟨t, rfl, rfl⟩
  | encsp q | enchy q => exact formatQ_eq_some.2 rfl

/-- A step that takes a presented command has that command's effect. -/
theorem step_of_presented {s t : State} {i : Instr} {rest : List PortInput}
    (hin : s.inputs = present (encode i) :: rest) (he : Effect (s.setInputs rest) i t) : step s = .next t := by
  rw [step_of_word hin rfl rfl]
  exact (runWord_of_decode (decode_encode i) _).trans he.exec_eq

/-- A run begins with the effect of the command presented first, and goes on from there. -/
theorem answers_run_of_presented {s t : State} {i : Instr} {rest : List PortInput} {k : Nat} {P : State → Prop}
    (hin : s.inputs = present (encode i) :: rest) (he : Effect (s.setInputs rest) i t)
    (h : Answers (core.run k t) P) : Answers (core.run (k + 1) s) P := by
  have hrun : core.run (k + 1) s = core.run k t := by
    have hstep : core.step s = .next t := step_of_presented hin he
    simp [Host.Core.run, hstep]
  rwa [hrun]

/-- A completed command leaves each register it writes readable on its port. -/
theorem Effect.readPort_of_completed {s t : State} {i : Instr} (he : Effect s i t) (herr : t.err = .eNone)
    {p : OutPort} (hp : p.reg ∈ writesOf i) : ∃ x, readPort t p = .ok x := by
  have hi : i ≠ .nop := by rintro rfl; simp [writesOf] at hp
  obtain ⟨e, hne, -, rfl⟩ | ⟨-, hwrites, -, -⟩ := he.raised_or_completed hi
  · exact absurd herr hne
  · obtain ⟨x, hx⟩ := Option.isSome_iff_exists.1 (hwrites _ hp)
    exact ⟨x, readPort_eq_ok.2 hx⟩

/-- The command a reading operation presents last: the one that leaves the result. -/
def DriverRead.lastCommand : DriverRead → Instr
  | .adcReady b | .readStatus b => .ldstat b
  | .readTemperature _ _ _ => .dect
  | .readAlarmFlags w => .ldalrm w
  | .readConfiguration b | .reset b => .ldcfg b
  | .readSetpoint _ w => .decsp w
  | .readHysteresis b => .ldhyst b
  | .readDeviceId b => .ldid b

/-- It is the last command of the operation's steps. -/
theorem DriverRead.getLast?_steps (op : DriverRead) : op.steps.getLast? = some (.cmd op.lastCommand) := by
  cases op <;> rfl

/-- R28 lists every register R43 names for the result among those the last command writes. -/
theorem DriverRead.resultPorts_written (op : DriverRead) : ∀ p ∈ op.resultPorts, p.reg ∈ writesOf op.lastCommand := by
  cases op <;> simp [DriverRead.resultPorts, DriverRead.lastCommand, OutPort.reg, writesOf]

/-- Where the last command completes, each port R43 names for the result can be read. -/
theorem DriverRead.resultPorts_readable {op : DriverRead} {s t : State} (he : Effect s op.lastCommand t)
    (herr : t.err = .eNone) : ∀ p ∈ op.resultPorts, ∃ x, readPort t p = .ok x :=
  fun p hp => he.readPort_of_completed herr (op.resultPorts_written p hp)

/-- A run that takes the operation's last command, which completes and keeps `TOUT`, ends the operation. `P` is what is to
be shown of the result. -/
theorem answers_run_of_lastCommand (op : DriverRead) {s t : State} {rest : List PortInput} {P : State → Prop}
    (hin : s.inputs = present (encode op.lastCommand) :: rest)
    (he : Effect (s.setInputs rest) op.lastCommand t) (herr : t.err = .eNone) (htout : t.tout = s.tout) (hP : P t) :
    Answers (core.run 1 s) fun t => t.inputs = rest ∧ t.err = .eNone ∧ t.tout = s.tout ∧
      (∀ p ∈ op.resultPorts, ∃ x, readPort t p = .ok x) ∧ P t := by
  obtain ⟨hinputs, -⟩ := exec_inputs_params he.exec_eq
  exact answers_run_of_presented hin he ⟨t, rfl, hinputs, herr, htout, DriverRead.resultPorts_readable he herr, hP⟩

/-- The end of a temperature reading: DECT finds the two bytes read and the resolution of the configuration byte read. -/
theorem answers_run_of_dect {s : State} {rest : List PortInput} (c m l : Byte)
    (hin : s.inputs = present (encode .dect) :: rest) (hm : s.tmsb = some m) (hl : s.tlsb = some l)
    (hr : s.flags.res = some (flagRes c)) :
    Answers (core.run 1 s) fun t => t.inputs = rest ∧ t.err = .eNone ∧ t.tout = s.tout ∧
      (∀ p ∈ (DriverRead.readTemperature c m l).resultPorts, ∃ x, readPort t p = .ok x) ∧
      t.val = some (tc16 (val128 (resolutionOf s.params (flagRes c)) (joinBytes m l))) :=
  answers_run_of_lastCommand (.readTemperature c m l) hin (.dect m l (flagRes c) hm hl hr) rfl rfl rfl

/-! ## The statements -/

/-- Settles O50: an encode that raises empties both outputs; one that completes puts out the swap of its word, or a byte
of at most 15. -/
theorem rejectedValuesNeverReachTheBus : Obligations.RejectedValuesNeverReachTheBus := by
  intro op i s t hop hexec
  cases op with
  | writeConfiguration b => cases hop
  | writeSetpoint k q =>
    cases hop
    cases exec_eq_next_iff.1 hexec with
    | encsp => exact ⟨fun h => absurd rfl h, fun _ => ⟨rfl, .inl ⟨k, q, _, rfl, rfl, rfl⟩⟩⟩
    | encspRange => exact ⟨fun _ => rejected_of_raised rfl (.inl rfl) s, nofun⟩
  | writeHysteresis q =>
    cases hop
    cases exec_eq_next_iff.1 hexec with
    | enchy _ hq =>
      have hbus := congrArg (fun b => [BusAccess.write8 .hyst b]) (setWidth_zext16 (hystByteOfQ q))
      exact ⟨fun h => absurd rfl h, fun _ => ⟨rfl, .inr ⟨q, _, rfl, rfl, hystByteOfQ_le hq, hbus⟩⟩⟩
    | enchyError _ e hq =>
      have hcode := hystError_cases hq
      exact ⟨fun _ => rejected_of_raised rfl hcode s, fun h => absurd h (encodeError_code hcode).1⟩

/-- Settles O51: the commands the operation presents run one after another, and the last one leaves the result. -/
theorem driverReadOperationsLeaveTheirResults : Obligations.DriverReadOperationsLeaveTheirResults := by
  intro op s rest hin
  cases op with
  | adcReady b => exact answers_run_of_lastCommand _ hin (.ldstat b) rfl rfl (congrArg some (flagRdy_eq b))
  | readTemperature c m l =>
    refine answers_run_of_presented hin (.ldcfg c) ?_
    refine answers_run_of_presented rfl (.ldtmsb m) ?_
    refine answers_run_of_presented rfl (.ldtlsb l) ?_
    exact answers_run_of_dect c m l rfl rfl rfl rfl
  | readAlarmFlags w =>
    have hbit {k : Nat} (hk : k < 8) : some ((swap16 w).getLsbD k) = some (w.getLsbD (8 + k)) :=
      congrArg some (getLsbD_swap16_low w hk)
    exact answers_run_of_lastCommand _ hin (.ldalrm w) rfl rfl
      ⟨hbit (k := 0) (by decide), hbit (k := 1) (by decide), hbit (k := 2) (by decide)⟩
  | readStatus b => exact answers_run_of_lastCommand _ hin (.ldstat b) rfl rfl (congrArg some (zext16_eq_append b))
  | readConfiguration b =>
    exact answers_run_of_lastCommand _ hin (.ldcfg b) rfl rfl (congrArg some (zext16_eq_append b))
  | readSetpoint k w =>
    have hval := congrArg (fun x => some (tc16 (val128 .sixteenBit x))) (swap16_eq_rotateLeft w)
    exact answers_run_of_lastCommand (.readSetpoint k w) hin (.decsp w) rfl rfl hval
  | readHysteresis b =>
    exact answers_run_of_lastCommand _ hin (.ldhyst b) rfl rfl (congrArg some (zext16_eq_append b))
  | readDeviceId b =>
    exact answers_run_of_lastCommand _ hin (.ldid b) rfl rfl
      ⟨congrArg some (zext16_eq_append b), congrArg some (flagIdok_eq b)⟩
  | reset b => exact answers_run_of_lastCommand _ hin (.ldcfg b) rfl rfl (congrArg some (flagCfgz_eq b))

/-- Settles O52: the swap is a rotation bit by bit; as arithmetic it exchanges quotient and remainder by 256. -/
theorem byteSwapExchangesTheTwoBytes : Obligations.ByteSwapExchangesTheTwoBytes :=
  ⟨swap16_eq_rotateLeft, swap16_joinBytes, by decide⟩

end Sys2Proof.Machine
end

section
/-! The command words (30_encoding.md): the decoder inverts the encoder, the words that decode are the well-formed ones,
the rows of the opcode table are the mask and match of the commands, and a word that is none is an illegal command. -/

namespace Sys2Proof

open Machine

/-! ## The decoder inverts the encoder (R58, R59) -/

theorem fields_of_decodeFields {op : Nat} {arg : BitVec 32} {i : Instr} (h : decodeFields op arg = some i) :
    i.opcode.toNat = op ∧ i.arg = arg := by
  match op, h with
  | 0x0, h | 0x8, h | 0xF, h =>
    obtain ⟨rfl, rfl⟩ := formatN_eq_some.1 h
    exact ⟨rfl, rfl⟩
  | 0x1, h | 0x2, h | 0x3, h | 0x4, h | 0x6, h | 0x7, h =>
    obtain ⟨b, rfl, rfl⟩ := formatB_eq_some.1 h
    exact ⟨rfl, rfl⟩
  | 0x5, h | 0x9, h =>
    obtain ⟨t, rfl, rfl⟩ := formatH_eq_some.1 h
    exact ⟨rfl, rfl⟩
  | 0xA, h | 0xB, h =>
    obtain rfl := formatQ_eq_some.1 h
    exact ⟨rfl, rfl⟩
  | 0xC, h | 0xD, h | 0xE, h | _ + 16, h => cases h

/-- A word that decodes carries its command's opcode and argument. -/
theorem fields_of_decode {w : CommandWord} {i : Instr} (h : decode w = some i) :
    i.opcode = opcodeOf w ∧ i.arg = argOf w := by
  obtain ⟨hop, harg⟩ := fields_of_decodeFields h
  exact ⟨BitVec.eq_of_toNat_eq hop, harg⟩

theorem encode_of_decode {w : CommandWord} {i : Instr} (h : decode w = some i) : encode i = w := by
  obtain ⟨hop, harg⟩ := fields_of_decode h
  rw [encode, hop, harg, append_fields]

/-! ## The words that decode (R51 to R58) -/

/-- The must-be-zero bits of an argument of the format are zero (R51 to R54). -/
def Format.admits (f : Format) (arg : BitVec 32) : Bool := decide (arg.toNat < 2 ^ f.operandBits)

/-- A reader that checks just this condition answers a command exactly where its format admits the argument. -/
theorem Format.isSome_ite {f : Format} {arg : BitVec 32} {c : Prop} [Decidable c]
    (h : c ↔ arg.toNat < 2 ^ f.operandBits) (i : Instr) : (if c then some i else none).isSome = f.admits arg := by
  by_cases hc : c
  · simp [hc, Format.admits, h.1 hc]
  · simp [hc, Format.admits, Nat.le_of_not_lt (mt h.2 hc)]

/-- The bits of an argument from bit `k` on are zero exactly where it is below `2 ^ k`. -/
theorem extractLsb'_high_eq_zero {k n : Nat} (hkn : k + n = 32) (arg : BitVec 32) :
    arg.extractLsb' k n = 0 ↔ arg.toNat < 2 ^ k := by
  have hlt : arg.toNat / 2 ^ k < 2 ^ n := by
    rw [Nat.div_lt_iff_lt_mul (Nat.two_pow_pos k), ← Nat.pow_add, Nat.add_comm n k, hkn]
    exact arg.isLt
  rw [← BitVec.toNat_inj, BitVec.extractLsb'_toNat, Nat.shiftRight_eq_div_pow, Nat.mod_eq_of_lt hlt]
  simp

theorem isSome_formatN (i : Instr) (arg : BitVec 32) : (formatN i arg).isSome = Format.n.admits arg := by
  have hzero : arg = 0 ↔ arg.toNat < 2 ^ Format.n.operandBits := by
    rw [← BitVec.toNat_inj]
    simp [Format.operandBits]
  exact Format.isSome_ite hzero i

theorem isSome_formatB (mk : Byte → Instr) (arg : BitVec 32) : (formatB mk arg).isSome = Format.b.admits arg :=
  Format.isSome_ite (f := .b) (extractLsb'_high_eq_zero (k := 8) (n := 24) rfl arg) _

theorem isSome_formatH (mk : Word → Instr) (arg : BitVec 32) : (formatH mk arg).isSome = Format.h.admits arg :=
  Format.isSome_ite (f := .h) (extractLsb'_high_eq_zero (k := 16) (n := 16) rfl arg) _

theorem isSome_formatQ (mk : QWord → Instr) (arg : BitVec 32) : (formatQ mk arg).isSome = Format.q.admits arg :=
  (decide_eq_true arg.isLt).symm

theorem isSome_decodeFields (op : Nat) (arg : BitVec 32) :
    (decodeFields op arg).isSome = (formatOfOpcode op).any (·.admits arg) :=
  match op with
  | 0x0 | 0x8 | 0xF => isSome_formatN _ arg
  | 0x1 | 0x2 | 0x3 | 0x4 | 0x6 | 0x7 => isSome_formatB _ arg
  | 0x5 | 0x9 => isSome_formatH _ arg
  | 0xA | 0xB => isSome_formatQ _ arg
  | 0xC | 0xD | 0xE | _ + 16 => rfl

theorem wordWellFormed_eq (w : CommandWord) :
    wordWellFormed w = (formatOfOpcode (opcodeOf w).toNat).any (·.admits (argOf w)) := by
  simp only [wordWellFormed, Format.admits, opcodeOf_toNat, argOf_toNat]
  cases formatOfOpcode (w.toNat / 2 ^ 32) <;> rfl

theorem isSome_decode (w : CommandWord) : (decode w).isSome = wordWellFormed w :=
  (isSome_decodeFields _ _).trans (wordWellFormed_eq w).symm

/-! ## The opcode table (R55, R56) -/

/-- The format of a command (R55). -/
def Instr.format : Instr → Format
  | .nop | .dect | .clr => .n
  | .ldcfg _ | .ldstat _ | .ldtmsb _ | .ldtlsb _ | .ldhyst _ | .ldid _ => .b
  | .ldalrm _ | .decsp _ => .h
  | .encsp _ | .enchy _ => .q

/-- The mask of a format: the opcode and the must-be-zero bits (R56). -/
def Format.mask (f : Format) : CommandWord := BitVec.allOnes 36 <<< f.operandBits

/-- The row of a command, built from its opcode and its format (R56). -/
def Instr.row (i : Instr) : OpcodeRow := ⟨i.mnemonic, i.opcode ++ 0#32, i.format.mask⟩

theorem Instr.formatOfOpcode_opcode (i : Instr) : formatOfOpcode i.opcode.toNat = some i.format := by
  cases i <;> rfl

/-- A word with a command's opcode decodes exactly where the command's format admits its argument. -/
theorem isSome_decode_of_opcode {w : CommandWord} {i : Instr} (h : opcodeOf w = i.opcode) :
    (decode w).isSome = i.format.admits (argOf w) := by
  rw [isSome_decode, wordWellFormed_eq, h, i.formatOfOpcode_opcode, Option.any_some]

/-- An opcode's row is that of its command with the operand zero: a row depends on no operand. -/
def rowOfOpcode (op : Nat) : Option OpcodeRow := (decodeFields op 0).map Instr.row

theorem Instr.rowOfOpcode_opcode (i : Instr) : rowOfOpcode i.opcode.toNat = some i.row := by
  cases i <;> rfl

/-- Commands of one opcode share their row. -/
theorem Instr.row_eq_of_opcode_eq {i j : Instr} (h : i.opcode = j.opcode) : i.row = j.row := by
  rw [← Option.some_inj, ← rowOfOpcode_opcode, ← rowOfOpcode_opcode, h]

/-- The table has the rows of the sixteen opcodes, in their order. -/
theorem opcodeTable_eq_filterMap : opcodeTable = (List.range 16).filterMap rowOfOpcode := by decide

theorem mem_opcodeTable {r : OpcodeRow} : r ∈ opcodeTable ↔ ∃ i : Instr, i.row = r := by
  rw [opcodeTable_eq_filterMap, List.mem_filterMap]
  constructor
  · rintro ⟨op, -, hrow⟩
    obtain ⟨i, -, hi⟩ := Option.map_eq_some_iff.1 hrow
    exact ⟨i, hi⟩
  · rintro ⟨i, rfl⟩
    exact ⟨_, List.mem_range.2 i.opcode.isLt, i.rowOfOpcode_opcode⟩

theorem Instr.row_pattern_toNat (i : Instr) : i.row.pattern.toNat = i.opcode.toNat * 2 ^ 32 := by
  simp only [Instr.row, append_toNat, BitVec.toNat_ofNat, Nat.zero_mod, Nat.add_zero]

theorem Format.mask_toNat (f : Format) : f.mask.toNat = 2 ^ 36 - 2 ^ f.operandBits := by
  cases f <;> rfl

/-- A mask keeps the quotient by the operand field. -/
theorem toNat_and_mask (w : CommandWord) (f : Format) :
    (w &&& f.mask).toNat = w.toNat / 2 ^ f.operandBits * 2 ^ f.operandBits := by
  have hshift : w &&& f.mask = (w >>> f.operandBits) <<< f.operandBits := by
    apply BitVec.eq_of_getLsbD_eq
    intro k hk
    simp only [Format.mask, BitVec.getLsbD_and, BitVec.getLsbD_shiftLeft, BitVec.getLsbD_ushiftRight,
      BitVec.getLsbD_allOnes]
    by_cases h : k < f.operandBits
    · simp [h]
    · simp [h, hk, Nat.sub_lt_of_lt hk, Nat.add_sub_of_le (Nat.le_of_not_lt h)]
  have hle := Nat.div_mul_le_self w.toNat (2 ^ f.operandBits)
  rw [hshift, BitVec.toNat_shiftLeft, BitVec.toNat_ushiftRight, Nat.shiftLeft_eq, Nat.shiftRight_eq_div_pow,
    Nat.mod_eq_of_lt (hle.trans_lt w.isLt)]

/-- A word fits a command's row exactly where it has the command's opcode and the format's must-be-zero bits zero. -/
theorem Instr.row_fits_iff (i : Instr) (w : CommandWord) :
    i.row.fits w = true ↔ opcodeOf w = i.opcode ∧ i.format.admits (argOf w) = true := by
  have hw := w.isLt
  simp only [OpcodeRow.fits, Instr.row, beq_iff_eq, ← BitVec.toNat_inj, toNat_and_mask, append_toNat, opcodeOf_toNat,
    argOf_toNat, Format.admits, decide_eq_true_eq, BitVec.toNat_ofNat]
  -- what is left is the split of a number below `2 ^ 36` at bit 32 and at the operand's width
  cases i.format <;> simp only [Format.operandBits] <;> omega

/-- A word fits exactly the row of the command it decodes to (R56). -/
theorem Instr.row_fits_iff_decode (i : Instr) (w : CommandWord) :
    i.row.fits w = true ↔ ∃ j, decode w = some j ∧ j.row = i.row := by
  constructor
  · intro hfits
    obtain ⟨hop, hadmits⟩ := (i.row_fits_iff w).1 hfits
    rw [← isSome_decode_of_opcode hop] at hadmits
    obtain ⟨j, hj⟩ := Option.isSome_iff_exists.1 hadmits
    exact ⟨j, hj, row_eq_of_opcode_eq ((fields_of_decode hj).1.trans hop)⟩
  · rintro ⟨j, hj, hrow⟩
    obtain ⟨hop, -⟩ := fields_of_decode hj
    rw [← hrow, j.row_fits_iff, ← isSome_decode_of_opcode hop.symm, hj]
    exact ⟨hop.symm, rfl⟩

/-! ## Illegal words (R57, R58) -/

/-- A presented word that is not well formed sets `ERR` to `E_ILLCMD` and changes nothing else. -/
theorem step_of_not_wellFormed {s : State} {w : CommandWord} {rest : List PortInput}
    (hin : s.inputs = present w :: rest) (hw : wordWellFormed w = false) :
    step s = .next ((s.setInputs rest).setErr .eIllcmd) := by
  have hd : decode w = none := by
    rw [← Option.not_isSome_iff_eq_none, isSome_decode, hw]
    exact Bool.false_ne_true
  exact (step_of_word hin rfl rfl).trans (runWord_of_illegal hd _)

/-! ## The statements -/

/-- Settles O1: the decoder reads the encoder's opcode and argument back, format by format. -/
theorem decodeOfEncodeIsTheCommand : Obligations.DecodeOfEncodeIsTheCommand := decode_encode

/-- Settles O2: a word is its opcode and its argument, and a command it decodes to has both. -/
theorem encodeOfDecodeIsTheWord : Obligations.EncodeOfDecodeIsTheWord := fun _ _ => encode_of_decode

/-- Settles O3: each row is a command's, and a word fits the rows of the command it decodes to. -/
theorem decodeFollowsTheOpcodeTable : Obligations.DecodeFollowsTheOpcodeTable := by
  refine ⟨fun w r hr hfits => ?_, fun w i hd => ?_, fun w r hr r' hr' hfits hfits' => ?_, fun r hr => ?_⟩
  · obtain ⟨i, rfl⟩ := mem_opcodeTable.1 hr
    obtain ⟨j, hj, hrow⟩ := (i.row_fits_iff_decode w).1 hfits
    rw [hj]
    exact congrArg (fun r => some r.mnemonic) hrow
  · exact ⟨i.row, mem_opcodeTable.2 ⟨i, rfl⟩, (i.row_fits_iff_decode w).2 ⟨i, hd, rfl⟩⟩
  · obtain ⟨i, rfl⟩ := mem_opcodeTable.1 hr
    obtain ⟨i', rfl⟩ := mem_opcodeTable.1 hr'
    obtain ⟨j, hj, hrow⟩ := (i.row_fits_iff_decode w).1 hfits
    obtain ⟨j', hj', hrow'⟩ := (i'.row_fits_iff_decode w).1 hfits'
    obtain rfl := Option.some_inj.1 (hj.symm.trans hj')
    exact hrow.symm.trans hrow'
  · obtain ⟨i, rfl⟩ := mem_opcodeTable.1 hr
    exact ⟨i.opcode.toNat, i.format, i.formatOfOpcode_opcode, i.row_pattern_toNat, i.format.mask_toNat⟩

/-- Settles O4: a format reads an operand exactly where its must-be-zero bits are zero. -/
theorem wellFormedWordsAreThoseThatDecode : Obligations.WellFormedWordsAreThoseThatDecode := isSome_decode

/-- Settles O5: a reserved opcode has no format. -/
theorem reservedOpcodeRaisesIllegalCommand : Obligations.ReservedOpcodeRaisesIllegalCommand := by
  intro s w rest hin hop
  refine step_of_not_wellFormed hin ?_
  obtain h | h | h := hop <;> rw [wordWellFormed, h] <;> rfl

/-- Settles O6: an argument not below the operand's range is not well formed. -/
theorem nonzeroMustBeZeroBitRaisesIllegalCommand : Obligations.NonzeroMustBeZeroBitRaisesIllegalCommand := by
  intro s w rest f hin hf hge
  refine step_of_not_wellFormed hin ?_
  simp only [wordWellFormed, hf]
  exact decide_eq_false hge.not_gt

/-- Settles O7: the words are fixed, and the decoder evaluates them. -/
theorem wordsFromTheSpecDecode : Obligations.WordsFromTheSpecDecode := by
  unfold Obligations.WordsFromTheSpecDecode
  decide

end Sys2Proof
end

section
/-! The decoder (40_decode.md): a register word is a sign and a magnitude, a decode is the magnitude under the sign, and
DECT and DECSP put that out. -/

namespace Sys2Proof.Machine

/-! ## A number under a sign -/

/-- A magnitude under a sign bit (R65). -/
def withSign {α : Type} [Neg α] (neg : Bool) (x : α) : α := if neg then -x else x

@[simp] theorem withSign_false {α : Type} [Neg α] (x : α) : withSign false x = x := rfl

@[simp] theorem withSign_true {α : Type} [Neg α] (x : α) : withSign true x = -x := rfl

theorem withSign_not (neg : Bool) (x : Int) : withSign (!neg) x = -withSign neg x := by
  cases neg <;> simp

theorem withSign_sub (neg : Bool) (x y : ℚ) : withSign neg x - withSign neg y = withSign neg (x - y) := by
  cases neg
  · rfl
  · rw [withSign_true, withSign_true, withSign_true, neg_sub_neg, neg_sub]

theorem abs_withSign (neg : Bool) (x : ℚ) : |withSign neg x| = |x| := by
  cases neg
  · rfl
  · exact abs_neg x

/-- A count under a sign, taken as a number of degrees. -/
theorem cast_withSign_div (neg : Bool) (n : Int) (d : ℚ) :
    ((withSign neg n : Int) : ℚ) / d = withSign neg ((n : ℚ) / d) := by
  cases neg
  · rfl
  · rw [withSign_true, withSign_true, Int.cast_neg, neg_div]

/-- Every integer is its absolute value under its sign. -/
theorem withSign_natAbs (n : Int) : withSign (decide (n < 0)) (n.natAbs : Int) = n := by
  by_cases h : n < 0
  · rw [decide_eq_true h, withSign_true]; omega
  · rw [decide_eq_false h, withSign_false]; omega

/-- Zero is the only number that two signs and magnitudes share. -/
theorem withSign_eq_withSign {neg neg' : Bool} {m m' : Nat} :
    withSign neg (m : Int) = withSign neg' (m' : Int) ↔ m = m' ∧ (neg = neg' ∨ m = 0) := by
  cases neg <;> cases neg' <;> simp <;> omega

/-! ## A word as a sign and a magnitude (R65 to R68) -/

theorem flagNeg_eq (w : Word) : flagNeg w = decide (32768 ≤ w.toNat) := getLsbD_15_eq w

/-- A word is its sign bit above its 15 magnitude bits. -/
theorem toNat_eq_sign_add_magnitude (w : Word) : w.toNat = (flagNeg w).toNat * 32768 + w.toNat % 32768 := by
  have hw := w.isLt
  rw [flagNeg_eq]
  by_cases h : 32768 ≤ w.toNat
  · rw [decide_eq_true h, Bool.toNat_true]; omega
  · rw [decide_eq_false h, Bool.toNat_false]; omega

theorem eq_of_sign_magnitude {w w' : Word} (hsign : flagNeg w = flagNeg w')
    (hmag : w.toNat % 32768 = w'.toNat % 32768) : w = w' :=
  BitVec.eq_of_toNat_eq (by rw [toNat_eq_sign_add_magnitude w, toNat_eq_sign_add_magnitude w', hsign, hmag])

/-- The two words of magnitude 0 (R71). -/
theorem eq_zero_or_eq_signBit {w : Word} (h : w.toNat % 32768 = 0) : w = 0x0000 ∨ w = 0x8000 := by
  cases hneg : flagNeg w
  · exact .inl (eq_of_sign_magnitude hneg h)
  · exact .inr (eq_of_sign_magnitude hneg h)

/-- Every sign and every magnitude of 15 bits are those of a word. -/
theorem exists_word_of_sign_magnitude (neg : Bool) {m : Nat} (hm : m < 32768) :
    ∃ w : Word, flagNeg w = neg ∧ w.toNat % 32768 = m := by
  have hneg := neg.toNat_lt
  have hw : (BitVec.ofNat 16 (neg.toNat * 32768 + m)).toNat = neg.toNat * 32768 + m := by
    rw [BitVec.toNat_ofNat, Nat.mod_eq_of_lt (by omega)]
  refine ⟨BitVec.ofNat 16 (neg.toNat * 32768 + m), ?_, ?_⟩
  · rw [flagNeg_eq, hw]
    cases neg <;> simp [hm]
  · rw [hw]; omega

theorem dec16_eq (w : Word) : dec16 w = withSign (flagNeg w) (((w.toNat % 32768 : Nat) : ℚ) / 128) := by
  rw [← counts_sixteenBit]; rfl

theorem dec13_eq (w : Word) : dec13 w = withSign (flagNeg w) (((w.toNat % 32768 / 8 : Nat) : ℚ) / 16) := by
  rw [← counts_thirteenBit]; rfl

theorem val128_eq (r : Resolution) (w : Word) : val128 r w = withSign (flagNeg w) (magnitude128 r w : Int) := rfl

theorem val128_sixteenBit_eq (w : Word) :
    val128 .sixteenBit w = withSign (flagNeg w) ((w.toNat % 32768 : Nat) : Int) := by
  rw [val128_eq, magnitude128_sixteenBit]

/-- `val128` counts the degrees of either resolution exactly (R68). -/
theorem val128_div_eq_degreesOf (r : Resolution) (w : Word) : (val128 r w : ℚ) / 128 = degreesOf r w := by
  rw [val128_eq, cast_withSign_div, Int.cast_natCast]
  cases r with
  | thirteenBit =>
    rw [degreesOf, dec13_eq, magnitude128_thirteenBit, Nat.cast_mul]
    congr 1
    ring
  | sixteenBit => rw [degreesOf, dec16_eq, magnitude128_sixteenBit]

theorem val128_bounds (r : Resolution) (w : Word) : -32767 ≤ val128 r w ∧ val128 r w ≤ 32767 := by
  have h := magnitude128_le r w
  rw [val128_eq]
  cases flagNeg w
  · rw [withSign_false]; omega
  · rw [withSign_true]; omega

theorem eight_dvd_val128_thirteenBit (w : Word) : (8 : Int) ∣ val128 .thirteenBit w := by
  have h : (8 : Int) ∣ magnitude128 .thirteenBit w := by rw [magnitude128_thirteenBit]; omega
  rw [val128_eq]
  cases flagNeg w
  · exact h
  · exact Int.dvd_neg.2 h

theorem val128_eq_zero {r : Resolution} {w : Word} (h : magnitude128 r w = 0) : val128 r w = 0 := by
  rw [val128_eq, h]
  cases flagNeg w <;> rfl

/-! ## Shifts, flips and cleared bits (R69, R74) -/

/-- Shifted without a mask, the sign bit stays among the counts. -/
theorem toNat_shift_then_mask (w : Word) : ((w >>> 3) &&& 0x7FFF).toNat = w.toNat / 8 := by
  have hw := w.isLt
  rw [show ((w >>> 3) &&& 0x7FFF).toNat = (w >>> 3).toNat % 32768 from toNat_and_magMask _,
    BitVec.toNat_ushiftRight, Nat.shiftRight_eq_div_pow]
  omega

theorem flagNeg_flip (w : Word) : flagNeg (w ^^^ 0x8000) = !flagNeg w := by
  simp [flagNeg]

/-- No magnitude mask holds the sign bit. -/
theorem magnitude128_flip (r : Resolution) (w : Word) : magnitude128 r (w ^^^ 0x8000) = magnitude128 r w := by
  have h : (w ^^^ 0x8000).toNat % 32768 = w.toNat % 32768 := by
    rw [BitVec.toNat_xor, Nat.xor_mod_two_pow (n := 15)]
    simp
  cases r with
  | thirteenBit => rw [magnitude128_thirteenBit, magnitude128_thirteenBit, h]
  | sixteenBit => rw [magnitude128_sixteenBit, magnitude128_sixteenBit, h]

theorem flagNeg_clear_low (w : Word) : flagNeg (w &&& 0xFFF8) = flagNeg w := by
  simp [flagNeg]

/-- The two masks 0xFFF8 and 0x7FFF in turn are the mask 0x7FF8. -/
theorem magnitude128_clear_low (w : Word) : magnitude128 .sixteenBit (w &&& 0xFFF8) = magnitude128 .thirteenBit w := by
  rw [magnitude128, magnitude128, BitVec.and_assoc]
  rfl

/-- The two decodes of a word are apart by the three bits ThirteenBit drops (R74 (d)). -/
theorem abs_dec16_sub_dec13 (w : Word) : |dec16 w - dec13 w| = ((w.toNat % 8 : Nat) : ℚ) / 128 := by
  have hsplit : ((w.toNat % 32768 : Nat) : ℚ) = (w.toNat % 32768 / 8 : Nat) * 8 + (w.toNat % 8 : Nat) := by
    exact_mod_cast (show w.toNat % 32768 = w.toNat % 32768 / 8 * 8 + w.toNat % 8 by omega)
  have hdiff : ((w.toNat % 32768 : Nat) : ℚ) / 128 - (w.toNat % 32768 / 8 : Nat) / 16 = (w.toNat % 8 : Nat) / 128 := by
    rw [hsplit]; ring
  rw [dec16_eq, dec13_eq, withSign_sub, abs_withSign, hdiff]
  exact abs_of_nonneg (by positivity)

/-! ## The decode commands (R71 to R73) -/

theorem flagNeg_joinBytes (m l : Byte) : flagNeg (joinBytes m l) = decide (128 ≤ m.toNat) := by
  have hl := l.isLt
  rw [flagNeg_eq, joinBytes_toNat]
  exact decide_eq_decide.2 (by omega)

theorem flagNeg_swap16 (t : Word) : flagNeg (swap16 t) = t.getLsbD 7 := by
  rw [swap16_eq_rotateLeft, flagNeg, BitVec.getLsbD_rotateLeft]
  rfl

/-- A transport word as the argument of its command. -/
theorem setWidth_eq_zero_append (t : Word) : t.setWidth 32 = 0#16 ++ t := BitVec.setWidth_eq_append (by decide)

/-- A decoded word of sign 1 and magnitude 0 leaves 0 in `VAL` and its sign in `NEG` (R71). -/
theorem decoded_of_negative_zero {r : Resolution} {w : Word} (hneg : flagNeg w = true) (hmag : magnitude128 r w = 0)
    (s : State) : (s.decoded r w).val = some 0x0000 ∧ (s.decoded r w).flags.neg = some true := by
  simp [State.decoded, val128_eq_zero hmag, hneg, tc16]

/-! ## The statements -/

/-- Settles O27: the magnitude is the word without its sign bit, and every magnitude below 32768 is a word's. -/
theorem dec16IsSignMagnitudeAt128PerDegree : Obligations.Dec16IsSignMagnitudeAt128PerDegree := by
  refine ⟨fun w hw => ?_, fun w hw => ?_, fun n hmin hmax => ?_⟩
  · rw [dec16_eq, flagNeg_eq, decide_eq_false (by omega), withSign_false, Nat.mod_eq_of_lt hw]
  · have hw' := w.isLt
    rw [dec16_eq, flagNeg_eq, decide_eq_true hw, withSign_true, show w.toNat % 32768 = w.toNat - 32768 by omega,
      Nat.cast_sub hw, Nat.cast_ofNat]
  · obtain ⟨w, hneg, hmag⟩ := exists_word_of_sign_magnitude (decide (n < 0)) (m := n.natAbs) (by omega)
    refine ⟨w, ?_⟩
    rw [dec16_eq, hneg, hmag, ← Int.cast_natCast, ← cast_withSign_div, withSign_natAbs]

/-- Settles O28: the counts are the magnitude over 8, and every count below 4096 is a word's. -/
theorem dec13IsSignMagnitudeAt16PerDegree : Obligations.Dec13IsSignMagnitudeAt16PerDegree := by
  refine ⟨fun w hw => ?_, fun w hw => ?_, fun n hmin hmax => ?_⟩
  · rw [dec13_eq, flagNeg_eq, decide_eq_false (by omega), withSign_false, Nat.mod_eq_of_lt hw]
  · have hw' := w.isLt
    rw [dec13_eq, flagNeg_eq, decide_eq_true hw, withSign_true, show w.toNat % 32768 = w.toNat - 32768 by omega]
  · obtain ⟨w, hneg, hmag⟩ := exists_word_of_sign_magnitude (decide (n < 0)) (m := n.natAbs * 8) (by omega)
    refine ⟨w, ?_⟩
    rw [dec13_eq, hneg, hmag, Nat.mul_div_cancel _ (by decide), ← Int.cast_natCast, ← cast_withSign_div,
      withSign_natAbs]

/-- Settles O29: the magnitude in 1/128 degree is at most 32767, so its 16-bit form under either sign reads back. -/
theorem val128IsTheExactDecode : Obligations.Val128IsTheExactDecode := by
  intro r w
  obtain ⟨hmin, hmax⟩ := val128_bounds r w
  obtain ⟨hne, -, -⟩ := valNegSound_decoded r w
  exact ⟨val128_div_eq_degreesOf r w, hmin, hmax, toInt_tc16_val128 r w, hne _ rfl,
    Int.emod_eq_zero_of_dvd (eight_dvd_val128_thirteenBit w)⟩

/-- Settles O30: shifting first leaves the sign bit in the counts as 4096. -/
theorem maskBeforeShift : Obligations.MaskBeforeShift := by
  refine ⟨counts_thirteenBit, fun w hw => ?_, fun w hw => ?_⟩
  · rw [counts_thirteenBit, toNat_shift_then_mask, Nat.mod_eq_of_lt hw]
  · rw [counts_thirteenBit, toNat_shift_then_mask]
    omega

/-- Settles O31: each law is one about the sign and one about the magnitude. -/
theorem decoderSignOrderAndTruncationLaws : Obligations.DecoderSignOrderAndTruncationLaws := by
  refine ⟨fun r w => ?_, fun w w' hw hw' hlt => ?_, fun w w' hw hw' hlt => ?_, fun w => ?_⟩
  · rw [val128_eq, val128_eq, flagNeg_flip, magnitude128_flip, withSign_not]
  · rw [val128_eq, val128_eq, flagNeg, flagNeg, hw, hw']
    exact Int.ofNat_lt.2 hlt
  · rw [val128_eq, val128_eq, flagNeg, flagNeg, hw, hw']
    exact Int.neg_lt_neg (Int.ofNat_lt.2 hlt)
  · rw [val128_eq, val128_eq, flagNeg_clear_low, magnitude128_clear_low]

/-- Settles O32: the decodes are apart by the dropped bits; equal values have equal magnitudes, and equal signs unless
they are zero. -/
theorem decoderDistanceAndCollisionLaws : Obligations.DecoderDistanceAndCollisionLaws := by
  refine ⟨fun w => ?_, fun w hw => ?_, fun w w' hne heq => ?_, fun w w' heq => ?_⟩
  · have hle : ((w.toNat % 8 : Nat) : ℚ) ≤ 7 := by exact_mod_cast (show w.toNat % 8 ≤ 7 by omega)
    rw [abs_dec16_sub_dec13]
    exact div_le_div_of_nonneg_right hle (by norm_num)
  · rw [abs_dec16_sub_dec13, hw, Nat.cast_ofNat]
  · rw [val128_sixteenBit_eq, val128_sixteenBit_eq, withSign_eq_withSign] at heq
    obtain ⟨hmag, hsign | hzero⟩ := heq
    · exact absurd (eq_of_sign_magnitude hsign hmag) hne
    · obtain rfl | rfl := eq_zero_or_eq_signBit hzero
      · exact .inl ⟨rfl, (eq_zero_or_eq_signBit hmag.symm).resolve_left hne.symm⟩
      · exact .inr ⟨rfl, (eq_zero_or_eq_signBit hmag.symm).resolve_right hne.symm⟩
  · rw [val128_eq, val128_eq, withSign_eq_withSign, magnitude128_thirteenBit, magnitude128_thirteenBit] at heq
    rw [counts_thirteenBit, counts_thirteenBit]
    have hw := toNat_eq_sign_add_magnitude w
    have hw' := toNat_eq_sign_add_magnitude w'
    obtain ⟨hmag, hsign | hzero⟩ := heq
    · rw [← hsign] at hw'
      left; omega
    · right; omega

/-- Settles O33: DECT has one word, and one effect with its inputs present and one with an input missing. -/
theorem dectDecodesTheLatchedReading : Obligations.DectDecodesTheLatchedReading := by
  refine ⟨decode_encode .dect, fun w hw => (encode_of_decode hw).symm, fun s m l res hm hl hr => ?_,
    fun s h => (Effect.dectMissing h).exec_eq⟩
  rw [← flagNeg_joinBytes m l]
  exact (Effect.dect m l res hm hl hr).exec_eq

/-- Settles O34: the argument of the word is the transport word, and the swap is a rotation. -/
theorem decspDecodesTheSwappedSetpoint : Obligations.DecspDecodesTheSwappedSetpoint := by
  intro t s
  rw [← setWidth_eq_zero_append, ← swap16_eq_rotateLeft, ← flagNeg_swap16]
  exact ⟨decode_encode (.decsp t), (Effect.decsp t).exec_eq⟩

/-- Settles O35: the words named have sign 1 and no bit under the magnitude mask of their resolution. -/
theorem negativeZeroDecodesToZeroWithNegSet : Obligations.NegativeZeroDecodesToZeroWithNegSet := by
  refine ⟨fun s m l res hm hl hr hword => ?_, fun s => ?_⟩
  · refine ⟨_, (Effect.dect m l res hm hl hr).exec_eq, ?_⟩
    obtain ⟨hneg, hmag⟩ : flagNeg (joinBytes m l) = true ∧
        magnitude128 (resolutionOf s.params res) (joinBytes m l) = 0 := by
      obtain h | ⟨hres, hmin, hmax⟩ := hword
      · rw [joinBytes, h]
        exact ⟨by decide, by cases resolutionOf s.params res <;> decide⟩
      · rw [resolutionOf, if_neg hres, flagNeg_eq, magnitude128_thirteenBit, joinBytes, decide_eq_true hmin]
        exact ⟨rfl, by omega⟩
    exact decoded_of_negative_zero hneg hmag s
  · exact ⟨_, (Effect.decsp 0x0080).exec_eq, decoded_of_negative_zero (by decide) (by decide) s⟩

end Sys2Proof.Machine
end

section
/-! The encoder (41_encode.md): a setpoint word is a count of 1/128 degree under its sign bit, rounding gives the nearest
count, and ENCSP and ENCHY validate, round and put that out. -/

namespace Sys2Proof.Machine

/-! ## Words packed from a sign and a magnitude (R82, R84) -/

/-- The word of a sign bit above a magnitude of 15 bits. -/
def signMagnitudeWord (neg : Bool) (m : Nat) : Word :=
  if neg then signBit ||| BitVec.ofNat 16 m else BitVec.ofNat 16 m

theorem signMagnitudeWord_toNat (neg : Bool) {m : Nat} (hm : m < 32768) :
    (signMagnitudeWord neg m).toNat = neg.toNat * 32768 + m := by
  cases neg
  · rw [signMagnitudeWord, if_neg (by decide), BitVec.toNat_ofNat, Nat.mod_eq_of_lt (by omega), Bool.toNat_false]
    omega
  · rw [signMagnitudeWord, if_pos rfl, signBit_or_toNat hm, Bool.toNat_true]

theorem flagNeg_signMagnitudeWord (neg : Bool) {m : Nat} (hm : m < 32768) :
    flagNeg (signMagnitudeWord neg m) = neg := by
  rw [flagNeg_eq, signMagnitudeWord_toNat neg hm]
  cases neg <;> simp [hm]

theorem signMagnitudeWord_mod (neg : Bool) {m : Nat} (hm : m < 32768) :
    (signMagnitudeWord neg m).toNat % 32768 = m := by
  rw [signMagnitudeWord_toNat neg hm]
  omega

/-- Every word is packed from its own sign and magnitude. -/
theorem signMagnitudeWord_of_word (w : Word) : signMagnitudeWord (flagNeg w) (w.toNat % 32768) = w :=
  have hm : w.toNat % 32768 < 32768 := Nat.mod_lt _ (by decide)
  eq_of_sign_magnitude (flagNeg_signMagnitudeWord _ hm) (signMagnitudeWord_mod _ hm)

theorem dec16_signMagnitudeWord (neg : Bool) {m : Nat} (hm : m < 32768) :
    dec16 (signMagnitudeWord neg m) = withSign neg ((m : ℚ) / 128) := by
  rw [dec16_eq, flagNeg_signMagnitudeWord neg hm, signMagnitudeWord_mod neg hm]

/-- The word of an integer count of 1/128 degree. -/
def wordOfCount (n : Int) : Word := signMagnitudeWord (decide (n < 0)) n.natAbs

theorem val128_wordOfCount {n : Int} (hn : n.natAbs ≤ 32767) : val128 .sixteenBit (wordOfCount n) = n := by
  have hm : n.natAbs < 32768 := by omega
  rw [val128_sixteenBit_eq, wordOfCount, flagNeg_signMagnitudeWord _ hm, signMagnitudeWord_mod _ hm, withSign_natAbs]

theorem wordOfCount_withSign (neg : Bool) {m : Nat} (hm : m ≠ 0) :
    wordOfCount (withSign neg (m : Int)) = signMagnitudeWord neg m := by
  cases neg
  · rw [withSign_false, wordOfCount, decide_eq_false (by omega), Int.natAbs_natCast]
  · rw [withSign_true, wordOfCount, decide_eq_true (by omega), Int.natAbs_neg, Int.natAbs_natCast]

/-- Only negative zero is not the word of the count it decodes to (R87 (a)). -/
theorem wordOfCount_val128 (w : Word) :
    wordOfCount (val128 .sixteenBit w) = if w = 0x8000 then 0x0000 else w := by
  by_cases hzero : w.toNat % 32768 = 0
  · obtain rfl | rfl := eq_zero_or_eq_signBit hzero <;> decide
  · have hne : w ≠ 0x8000 := by rintro rfl; exact hzero rfl
    rw [if_neg hne, val128_sixteenBit_eq, wordOfCount_withSign _ hzero, signMagnitudeWord_of_word]

/-- The words whose count is in the setpoint range, negative zero among them (R81, R87 (d)). -/
theorem val128_in_range_iff (w : Word) : (-5120 ≤ val128 .sixteenBit w ∧ val128 .sixteenBit w ≤ 16000) ↔
    w.toNat ≤ 0x3E80 ∨ (0x8000 ≤ w.toNat ∧ w.toNat ≤ 0x9400) := by
  have hw := w.isLt
  rw [val128_sixteenBit_eq, flagNeg_eq]
  by_cases h : 32768 ≤ w.toNat
  · rw [decide_eq_true h, withSign_true]; omega
  · rw [decide_eq_false h, withSign_false]; omega

/-! ## Rounding (R83) -/

/-- What the parameter `TIE` makes of `f + 1/2`. -/
def roundHalf (tie : Tie) (f : Nat) : Nat :=
  match tie with
  | .halfAwayFromZero => f + 1
  | .halfToEven => if f % 2 = 0 then f else f + 1

theorem le_roundHalf_le (tie : Tie) (f : Nat) : f ≤ roundHalf tie f ∧ roundHalf tie f ≤ f + 1 := by
  cases tie
  · exact ⟨Nat.le_succ f, le_rfl⟩
  · rw [roundHalf]; split <;> omega

/-- Everything `round` does, by the whole part and the fraction of its argument. -/
theorem roundTie_natCast_add (tie : Tie) (f : Nat) {r : ℚ} (hr : 0 ≤ r) (hr' : r < 1) :
    roundTie tie (f + r) = if r < 1 / 2 then f else if 1 / 2 < r then f + 1 else roundHalf tie f := by
  have hfloor : ⌊(f : ℚ) + r⌋.toNat = f := by
    rw [Int.floor_natCast_add, Int.floor_eq_zero_iff.2 ⟨hr, hr'⟩, add_zero, Int.toNat_natCast]
  simp only [roundTie, hfloor, add_sub_cancel_left]
  rfl

theorem exists_natCast_add_fract {x : ℚ} (hx : 0 ≤ x) : ∃ (f : Nat) (r : ℚ), 0 ≤ r ∧ r < 1 ∧ x = f + r :=
  ⟨⌊x⌋₊, x - ⌊x⌋₊, sub_nonneg.2 (Nat.floor_le hx), by linarith [Nat.lt_floor_add_one x], by ring⟩

theorem roundTie_natCast (tie : Tie) (m : Nat) : roundTie tie m = m := by
  have h := roundTie_natCast_add tie m le_rfl zero_lt_one
  rwa [add_zero, if_pos (by norm_num)] at h

theorem abs_roundTie_sub_le (tie : Tie) {x : ℚ} (hx : 0 ≤ x) : |(roundTie tie x : ℚ) - x| ≤ 1 / 2 := by
  obtain ⟨f, r, hr, hr', rfl⟩ := exists_natCast_add_fract hx
  rw [roundTie_natCast_add tie f hr hr', abs_le]
  split_ifs with hlow hhigh
  · constructor <;> linarith
  · push_cast
    constructor <;> linarith
  · have hhalf : r = 1 / 2 := le_antisymm (not_lt.1 hhigh) (not_lt.1 hlow)
    obtain ⟨hmin, hmax⟩ := le_roundHalf_le tie f
    have hmin' : (f : ℚ) ≤ roundHalf tie f := by exact_mod_cast hmin
    have hmax' : (roundHalf tie f : ℚ) ≤ f + 1 := by exact_mod_cast hmax
    constructor <;> linarith

/-- Rounding does not pass an integer bound. -/
theorem roundTie_le (tie : Tie) {x : ℚ} {k : Nat} (hx : 0 ≤ x) (hk : x ≤ k) : roundTie tie x ≤ k := by
  obtain ⟨-, h⟩ := abs_le.1 (abs_roundTie_sub_le tie hx)
  have hlt : (roundTie tie x : ℚ) < (k + 1 : Nat) := by push_cast; linarith
  exact Nat.lt_succ_iff.1 (by exact_mod_cast hlt)

theorem setpointMagnitude_halfAwayFromZero (a : Nat) :
    setpointMagnitude .halfAwayFromZero a = (a + 256) / 512 := by
  rw [setpointMagnitude, Nat.shiftRight_eq_div_pow]

theorem setpointMagnitude_halfToEven (a : Nat) : setpointMagnitude .halfToEven a =
    if 256 < a % 512 ∨ (a % 512 = 256 ∧ a / 512 % 2 = 1) then a / 512 + 1 else a / 512 := by
  simp only [setpointMagnitude, Nat.shiftRight_eq_div_pow]

/-- The integer formulas of a setpoint's magnitude are `round` of its count (R82, R83). -/
theorem setpointMagnitude_eq_roundTie (tie : Tie) (a : Nat) :
    setpointMagnitude tie a = roundTie tie ((a : ℚ) / 512) := by
  have hlt : ((a % 512 : Nat) : ℚ) < 512 := by exact_mod_cast Nat.mod_lt a (by decide)
  have hsplit : (a : ℚ) / 512 = (a / 512 : Nat) + ((a % 512 : Nat) : ℚ) / 512 := by
    have h : (a : ℚ) = (a / 512 : Nat) * 512 + (a % 512 : Nat) := by exact_mod_cast (Nat.div_add_mod' a 512).symm
    rw [h]; ring
  have hlow : ((a % 512 : Nat) : ℚ) / 512 < 1 / 2 ↔ a % 512 < 256 := by
    rw [div_lt_div_iff₀ (by norm_num) (by norm_num)]
    norm_cast
    omega
  have hhigh : 1 / 2 < ((a % 512 : Nat) : ℚ) / 512 ↔ 256 < a % 512 := by
    rw [div_lt_div_iff₀ (by norm_num) (by norm_num)]
    norm_cast
    omega
  rw [hsplit, roundTie_natCast_add tie _ (by positivity) ((div_lt_one (by norm_num)).2 hlt)]
  simp only [hlow, hhigh]
  cases tie with
  | halfAwayFromZero => rw [setpointMagnitude_halfAwayFromZero, roundHalf]; split_ifs <;> omega
  | halfToEven => rw [setpointMagnitude_halfToEven, roundHalf]; split_ifs <;> omega

/-! ## `enc128` and the integer form of it that ENCSP computes (R82, R86) -/

theorem enc128_eq (tie : Tie) (v : ℚ) : enc128 tie v =
    if roundTie tie (|v| * 128) ≤ 32767 then
      some (signMagnitudeWord (decide (v < 0)) (roundTie tie (|v| * 128)))
    else none := by
  by_cases hv : v < 0 <;> simp [enc128, signMagnitudeWord, scale16, hv]

theorem enc128_eq_some {tie : Tie} {v : ℚ} {w : Word} : enc128 tie v = some w ↔
    roundTie tie (|v| * 128) ≤ 32767 ∧ signMagnitudeWord (decide (v < 0)) (roundTie tie (|v| * 128)) = w := by
  rw [enc128_eq, Option.ite_none_right_eq_some, Option.some_inj]

theorem setpointWord_eq (tie : Tie) (n : Int) :
    setpointWord tie n = signMagnitudeWord (decide (n < 0)) (setpointMagnitude tie n.natAbs) := by
  simp [setpointWord, signMagnitudeWord]

theorem withSign_abs (v : ℚ) : withSign (decide (v < 0)) |v| = v := by
  by_cases h : v < 0
  · rw [decide_eq_true h, withSign_true, abs_of_neg h, neg_neg]
  · rw [decide_eq_false h, withSign_false, abs_of_nonneg (not_lt.1 h)]

/-- Under the sign of `v`, a magnitude is as far from `v` as from the magnitude of `v`. -/
theorem abs_withSign_sub (a v : ℚ) : |withSign (decide (v < 0)) a - v| = |a - abs v| := by
  have h : withSign (decide (v < 0)) a - v = withSign (decide (v < 0)) (a - |v|) := by
    rw [← withSign_sub, withSign_abs]
  rw [h, abs_withSign]

theorem abs_cast_div_mul (n : Int) {d k : ℚ} (hd : 0 < d) : |(n : ℚ) / d| * k = n.natAbs / d * k := by
  rw [abs_div, abs_of_pos hd, Nat.cast_natAbs, Int.cast_abs]

theorem cast_div_lt_zero_iff (n : Int) {d : ℚ} (hd : 0 < d) : (n : ℚ) / d < 0 ↔ n < 0 := by
  rw [div_lt_iff₀ hd, zero_mul, Int.cast_lt_zero]

/-- A whole count is encoded without rounding. -/
theorem enc128_count (tie : Tie) {n : Int} (hn : n.natAbs ≤ 32767) :
    enc128 tie ((n : ℚ) / 128) = some (wordOfCount n) := by
  have hcount : |(n : ℚ) / 128| * 128 = n.natAbs := by rw [abs_cast_div_mul n (by norm_num)]; ring
  rw [enc128_eq_some, hcount, roundTie_natCast]
  exact ⟨hn, by simp only [cast_div_lt_zero_iff n (show (0 : ℚ) < 128 by norm_num), wordOfCount]⟩

/-- A setpoint of a whole count is packed without rounding. -/
theorem setpointWord_mul_512 (tie : Tie) (n : Int) : setpointWord tie (n * 512) = wordOfCount n := by
  have hmag : setpointMagnitude tie (n * 512).natAbs = n.natAbs := by
    have hcount : ((n * 512).natAbs : ℚ) / 512 = n.natAbs := by
      rw [Int.natAbs_mul, Nat.cast_mul]
      exact mul_div_cancel_right₀ _ (by norm_num)
    rw [setpointMagnitude_eq_roundTie, hcount, roundTie_natCast]
  rw [setpointWord_eq, hmag, wordOfCount, decide_eq_decide.2 (show n * 512 < 0 ↔ n < 0 by omega)]

/-- A setpoint in range rounds to at most 16000 counts (R82). -/
theorem setpointMagnitude_le_of_in_range (tie : Tie) {n : Int} (hmin : -2621440 ≤ n) (hmax : n ≤ 8192000) :
    setpointMagnitude tie n.natAbs ≤ 16000 :=
  setpointMagnitude_le (by omega)

/-- ENCSP's integer arithmetic is `enc128` of the operand's exact value. -/
theorem enc128_degreesOfQ (tie : Tie) {q : QWord} (hmin : -2621440 ≤ q.toInt) (hmax : q.toInt ≤ 8192000) :
    enc128 tie (degreesOfQ q) = some (setpointWord tie q.toInt) := by
  have hcount : |degreesOfQ q| * 128 = (q.toInt.natAbs : ℚ) / 512 := by
    rw [degreesOfQ, sintQ, abs_cast_div_mul _ (by norm_num)]; ring
  have hle := setpointMagnitude_le_of_in_range tie hmin hmax
  rw [enc128_eq_some, hcount, ← setpointMagnitude_eq_roundTie, setpointWord_eq, degreesOfQ, sintQ]
  exact ⟨by omega, by simp only [cast_div_lt_zero_iff _ (show (0 : ℚ) < 65536 by norm_num)]⟩

/-! ## The setpoint range in degrees (R81) -/

theorem degrees_lt_spMin_iff (n : Int) : (n : ℚ) / 65536 < -40 ↔ n < -2621440 := by
  rw [div_lt_iff₀ (by norm_num), show (-40 : ℚ) * 65536 = ((-2621440 : Int) : ℚ) by norm_num, Int.cast_lt]

theorem spMax_lt_degrees_iff (n : Int) : 125 < (n : ℚ) / 65536 ↔ 8192000 < n := by
  rw [lt_div_iff₀ (by norm_num), show (125 : ℚ) * 65536 = ((8192000 : Int) : ℚ) by norm_num, Int.cast_lt]

/-! ## The encode commands (R86, R88) -/

theorem exec_encsp_of_in_range {q : QWord} (hmin : -2621440 ≤ q.toInt) (hmax : q.toInt ≤ 8192000) (s : State) :
    exec (.encsp q) s = .next (s.encoded (setpointWord s.params.tie q.toInt)
      (some (swap16 (setpointWord s.params.tie q.toInt)))) := by
  refine (Effect.encsp q ?_).exec_eq
  rw [setpointOutOfRange_eq, sintQ, decide_eq_false_iff_not]
  omega

theorem exec_encsp_of_out_of_range {q : QWord} (h : q.toInt < -2621440 ∨ 8192000 < q.toInt) (s : State) :
    exec (.encsp q) s = .next (s.raised .eRange encodeDestinations) := by
  refine (Effect.encspRange q ?_).exec_eq
  rw [setpointOutOfRange_eq, sintQ, decide_eq_true h]

/-- The count DECSP leaves in `VAL`, as the operand of an ENCSP (R87 (d)). -/
theorem toInt_tc32_of_decsp {tw v : Word} {s u : State} (hu : exec (.decsp tw) s = .next u) (hv : u.val = some v) :
    (tc32 (v.toInt * 512)).toInt = val128 .sixteenBit (swap16 tw) * 512 := by
  rw [(Effect.decsp tw).exec_eq] at hu
  cases hu
  cases hv
  obtain ⟨hmin, hmax⟩ := val128_bounds .sixteenBit (swap16 tw)
  rw [toInt_tc16_val128, toInt_tc32 (by omega) (by omega)]

/-- What ENCHY puts out for a whole number of degrees. -/
theorem zext16_hystByteOfQ {q : QWord} {h : Nat} (hh : h ≤ 15) (hq : q.toInt = h * 65536) :
    zext16 (hystByteOfQ q) = BitVec.ofNat 16 h := by
  have hcond := BitVec.toInt_eq_toNat_cond q
  have hb : (hystByteOfQ q).toNat = q.toNat / 65536 % 256 := by
    simp [hystByteOfQ, Nat.shiftRight_eq_div_pow]
  apply BitVec.eq_of_toNat_eq
  rw [zext16_toNat, hb, BitVec.toNat_ofNat]
  split at hcond <;> omega

/-! ## The statements -/

/-- Settles O36: the two ends in 1/65536 degree are -2621440 and 8192000, and ENCSP has one effect between them and one
outside. -/
theorem setpointRangeIsTestedOnTheUnroundedValue : Obligations.SetpointRangeIsTestedOnTheUnroundedValue := by
  intro q s
  rw [degrees_lt_spMin_iff, spMax_lt_degrees_iff]
  by_cases h : q.toInt < -2621440 ∨ 8192000 < q.toInt
  · exact ⟨_, exec_encsp_of_out_of_range h s, iff_of_true rfl h⟩
  · exact ⟨_, exec_encsp_of_in_range (by omega) (by omega) s, iff_of_false (by simp [State.encoded]) h⟩

/-- Settles O37: the magnitude named is the one ENCSP computes, and a word is its sign and magnitude. -/
theorem encspPacksTheSetpoint : Obligations.EncspPacksTheSetpoint := by
  refine ⟨fun q => decode_encode (.encsp q), fun q s m w hmin hmax hm hw => ?_,
    fun q s h => exec_encsp_of_out_of_range h s⟩
  have hmag : m = setpointMagnitude s.params.tie q.toInt.natAbs := by
    rw [Int.abs_eq_natAbs] at hm
    cases htie : s.params.tie with
    | halfAwayFromZero =>
      simp only [htie] at hm
      rw [setpointMagnitude_halfAwayFromZero]
      exact_mod_cast hm
    | halfToEven =>
      simp only [htie] at hm
      rw [setpointMagnitude_halfToEven]
      exact_mod_cast hm
  have hle : m ≤ 16000 := hmag ▸ setpointMagnitude_le_of_in_range _ hmin hmax
  have hword : w = setpointWord s.params.tie q.toInt := by
    apply BitVec.eq_of_toNat_eq
    rw [hw, setpointWord_eq, ← hmag, signMagnitudeWord_toNat _ (by omega)]
    by_cases hneg : q.toInt < 0 <;> simp [hneg]
  rw [hword, ← swap16_eq_rotateLeft]
  exact ⟨hle, exec_encsp_of_in_range hmin hmax s⟩

/-- Settles O38: in range `enc128` of the exact value is the word ENCSP packs. -/
theorem encspRefinesEnc128 : Obligations.EncspRefinesEnc128 := by
  intro q s hlow hhigh
  have hmin : -2621440 ≤ q.toInt := not_lt.1 (mt (degrees_lt_spMin_iff q.toInt).2 hlow.not_gt)
  have hmax : q.toInt ≤ 8192000 := not_lt.1 (mt (spMax_lt_degrees_iff q.toInt).2 hhigh.not_gt)
  rw [enc128_degreesOfQ _ hmin hmax]
  exact ⟨_, exec_encsp_of_in_range hmin hmax s, rfl, rfl, rfl, rfl⟩

/-- Settles O39: each clause is a case of `roundTie_natCast_add`, or about the sign bit above one magnitude. -/
theorem roundIsNearestWithTheTieRule : Obligations.RoundIsNearestWithTheTieRule := by
  refine ⟨fun tie x hx => abs_roundTie_sub_le tie hx, ?_, fun tie v w hv hw => ?_, setpointMagnitude_eq_roundTie,
    setpointMagnitude_halfAwayFromZero⟩
  · rintro x f rfl
    have hround (tie : Tie) : roundTie tie ((f : ℚ) + 1 / 2) = roundHalf tie f := by
      rw [roundTie_natCast_add tie f (by norm_num) (by norm_num), if_neg (lt_irrefl _), if_neg (lt_irrefl _)]
    exact ⟨hround .halfAwayFromZero, hround .halfToEven⟩
  · rw [enc128_eq_some] at hw ⊢
    obtain ⟨hle, rfl⟩ := hw
    rw [abs_neg, decide_eq_true (neg_lt_zero.2 hv), decide_eq_false hv.not_gt]
    exact ⟨hle, BitVec.or_comm _ _⟩

/-- Settles O40: a magnitude that rounds to 0 leaves the sign bit alone, and the sign bit is the operand's sign. -/
theorem tinyNegativeSetpointEncodesAsNegativeZero : Obligations.TinyNegativeSetpointEncodesAsNegativeZero := by
  intro q s
  refine ⟨fun h => ?_, fun h => ?_, fun hmin hmax => ?_, ?_⟩
  · have hmag : setpointMagnitude s.params.tie q.toInt.natAbs = 0 := by
      obtain ⟨hmin, hneg⟩ | ⟨hq, htie⟩ := h
      · cases s.params.tie with
        | halfAwayFromZero => rw [setpointMagnitude_halfAwayFromZero]; omega
        | halfToEven => rw [setpointMagnitude_halfToEven, if_neg (by omega)]; omega
      · rw [htie, hq]; rfl
    have hword : setpointWord s.params.tie q.toInt = 0x8000 := by
      rw [setpointWord_eq, hmag, decide_eq_true (by omega)]; rfl
    refine ⟨_, exec_encsp_of_in_range (by omega) (by omega) s, ?_⟩
    rw [hword]
    exact ⟨rfl, rfl⟩
  · have hword : setpointWord s.params.tie q.toInt = 0x0000 := by
      rw [h]; exact setpointWord_mul_512 s.params.tie 0
    refine ⟨_, exec_encsp_of_in_range (by omega) (by omega) s, ?_⟩
    rw [hword]
    exact ⟨rfl, rfl⟩
  · have hle := setpointMagnitude_le_of_in_range s.params.tie hmin hmax
    have hsign : flagNeg (setpointWord s.params.tie q.toInt) = decide (q.toInt < 0) := by
      rw [setpointWord_eq, flagNeg_signMagnitudeWord _ (by omega)]
    exact ⟨_, exec_encsp_of_in_range hmin hmax s, _, rfl, by rw [← flagNeg, hsign, decide_eq_true_iff]⟩
  · rw [dec16_eq, show (0x8000 : Word).toNat % 32768 = 0 from rfl]
    simp [withSign]

/-- Settles O41: the decode of a word is a whole count, which is encoded without rounding. -/
theorem enc128InvertsDec16 : Obligations.Enc128InvertsDec16 := by
  intro tie w
  have hbounds := val128_bounds .sixteenBit w
  rw [show dec16 w = degreesOf .sixteenBit w from rfl, ← val128_div_eq_degreesOf, enc128_count tie (by omega),
    wordOfCount_val128]

/-- Settles O42: the word has the value's sign, and its magnitude is the nearest count. -/
theorem dec16InvertsEnc128ToWithinHalfACount : Obligations.Dec16InvertsEnc128ToWithinHalfACount := by
  intro tie v
  have hpos : 0 ≤ |v| * 128 := by positivity
  refine ⟨fun hv => ?_, fun w hw => ?_⟩
  · have hle : roundTie tie (|v| * 128) ≤ 32767 := roundTie_le tie hpos (by simpa [abs_mul] using hv)
    rw [enc128_eq, if_pos hle, Option.isSome_some]
  obtain ⟨hle, rfl⟩ := enc128_eq_some.1 hw
  rw [dec16_signMagnitudeWord _ (by omega)]
  refine ⟨?_, fun n hn => ?_⟩
  · have hnear := abs_roundTie_sub_le tie hpos
    have hdiff : (roundTie tie (|v| * 128) : ℚ) / 128 - |v| = (roundTie tie (|v| * 128) - |v| * 128) / 128 := by ring
    rw [abs_withSign_sub, hdiff, abs_div, abs_of_pos (show (0 : ℚ) < 128 by norm_num)]
    linarith
  · have hcount : |v| * 128 = n.natAbs := by
      rw [Nat.cast_natAbs, Int.cast_abs, ← hn, abs_mul, abs_of_pos (show (0 : ℚ) < 128 by norm_num)]
    rw [hcount, roundTie_natCast, ← hcount, mul_div_cancel_right₀ _ (by norm_num), withSign_abs]

/-- Settles O43: a whole count is packed without rounding, and its word decodes to the count. -/
theorem setpointWrittenThenReadBackIsExact : Obligations.SetpointWrittenThenReadBackIsExact := by
  intro q s n hq hmin hmax
  refine ⟨_, _, _, exec_encsp_of_in_range (by omega) (by omega) s, rfl, (Effect.decsp _).exec_eq, ?_, rfl⟩
  rw [swap16_swap16, hq, setpointWord_mul_512]
  exact congrArg (fun k => some (tc16 k)) (val128_wordOfCount (by omega))

/-- Settles O44: ENCSP gets back the count the word decodes to, which is in range for the words named. -/
theorem setpointReadThenWrittenBack : Obligations.SetpointReadThenWrittenBack := by
  intro tw s u x v hu hv hx
  have hq := toInt_tc32_of_decsp hu hv
  have hin (h : (swap16 tw).toNat ≤ 0x3E80 ∨ (0x8000 ≤ (swap16 tw).toNat ∧ (swap16 tw).toNat ≤ 0x9400)) :
      x = u.encoded (if swap16 tw = 0x8000 then 0x0000 else swap16 tw)
        (some (swap16 (if swap16 tw = 0x8000 then 0x0000 else swap16 tw))) := by
    obtain ⟨hmin, hmax⟩ := (val128_in_range_iff _).2 h
    rw [exec_encsp_of_in_range (by omega) (by omega), hq, setpointWord_mul_512, wordOfCount_val128] at hx
    exact (Host.Outcome.next.inj hx).symm
  refine ⟨fun h => ?_, fun h => ?_, fun h => ?_⟩
  · have hne : swap16 tw ≠ 0x8000 := by rintro heq; simp [heq] at h
    rw [hin (by omega), if_neg hne, swap16_swap16]
    exact ⟨rfl, rfl⟩
  · rw [hin (by simp [h]), if_pos h]
    rfl
  · have hout : ¬ (-5120 ≤ val128 .sixteenBit (swap16 tw) ∧ val128 .sixteenBit (swap16 tw) ≤ 16000) := by
      rw [val128_in_range_iff]; omega
    rw [exec_encsp_of_out_of_range (by omega)] at hx
    cases hx
    exact ⟨rfl, rfl⟩

/-- Settles O45: ENCHY's checks give no error for a whole number of degrees in range, and the error of the parameter's
order otherwise. -/
theorem enchyValidatesAndPacksTheHysteresis : Obligations.EnchyValidatesAndPacksTheHysteresis := by
  refine ⟨fun q => decode_encode (.enchy q), fun q s h hh hq => ?_,
    fun q s hrange horder => (Effect.enchyError q _ (hystError_eq_eRange.2 ⟨hrange, horder⟩)).exec_eq,
    fun q s hfrac horder => (Effect.enchyError q _ (hystError_eq_eNonint.2 ⟨hfrac, horder⟩)).exec_eq⟩
  rw [← zext16_hystByteOfQ hh hq]
  exact (Effect.enchy q (hystError_eq_none.2 (by omega))).exec_eq

end Sys2Proof.Machine
end

section
/-! The field multiplexer (42_field_mux.md): the words of the loads, the flags as tests on the bits of the byte or word
loaded, and the alarm bits as the part of a temperature word that the ThirteenBit decode drops. -/

namespace Sys2Proof.Machine

/-! ## The byte loaded (R95, R104) -/

/-- A byte as the argument of its command. -/
theorem setWidth_eq_zero_append_byte (b : Byte) : b.setWidth 32 = 0#24 ++ b := BitVec.setWidth_eq_append (by decide)

theorem flagRes_eq (b : Byte) : flagRes b = decide (128 ≤ b.toNat) := by
  have hnot : flagRes b = !flagRdy b := (Bool.not_not _).symm
  rw [hnot, flagRdy_eq, ← decide_not]
  exact decide_eq_decide.2 Nat.not_lt

/-- A byte on `DOUT` fills the low half, zeros the high half, and is what the host reads. -/
theorem byte_on_dout {b : Byte} {t : State} (h : t.dout = some (zext16 b)) :
    ∃ w, t.dout = some w ∧ w.extractLsb' 0 8 = b ∧ w.extractLsb' 8 8 = 0 ∧ readPort t .dout = .ok b.toNat := by
  refine ⟨_, h, ?_, ?_, readPort_eq_ok.2 ?_⟩
  · rw [zext16_eq_append, BitVec.extractLsb'_append_eq_right]
  · rw [zext16_eq_append, BitVec.extractLsb'_append_eq_left]; rfl
  · rw [OutPort.reg, State.get, h, Option.map_some, zext16_toNat]

/-! ## The alarm bits (R100, R103) -/

theorem getLsbD_joinBytes_low (m l : Byte) {k : Nat} (hk : k < 8) : (joinBytes m l).getLsbD k = l.getLsbD k := by
  rw [joinBytes, BitVec.getLsbD_append, if_pos hk]

theorem joinBytes_clear_low (m l : Byte) : joinBytes m (l &&& 0xF8) = joinBytes m l &&& 0xFFF8 := by
  have hmask : (0xFFF8 : Word) = BitVec.allOnes 8 ++ (0xF8 : Byte) := by decide
  rw [joinBytes, joinBytes, hmask, BitVec.and_append, BitVec.and_allOnes]

/-- The ThirteenBit decode does not see bits 2 to 0. -/
theorem val128_thirteenBit_clear_low (w : Word) : val128 .thirteenBit (w &&& 0xFFF8) = val128 .thirteenBit w := by
  have hmag : magnitude128 .thirteenBit (w &&& 0xFFF8) = magnitude128 .thirteenBit w := by
    rw [← magnitude128_clear_low, BitVec.and_assoc, BitVec.and_self, magnitude128_clear_low]
  rw [val128_eq, val128_eq, flagNeg_clear_low, hmag]

/-! ## The statements -/

/-- Settles O26: LDALRM swaps the word back, its low byte is the LSB byte, and the mask of the decode has no bit there. -/
theorem alarmBitsAreTheBitsThirteenBitDecodeDrops : Obligations.AlarmBitsAreTheBitsThirteenBitDecodeDrops := by
  refine fun m l s => ⟨⟨_, (Effect.ldalrm _).exec_eq, ?_⟩, ?_⟩
  · have hbit {k : Nat} (hk : k < 8) :
        some ((swap16 (swap16 (joinBytes m l))).getLsbD k) = some (l.getLsbD k) := by
      rw [swap16_swap16, getLsbD_joinBytes_low m l hk]
    exact ⟨hbit (by decide), hbit (by decide), hbit (by decide), rfl, rfl, rfl⟩
  · rw [joinBytes_clear_low, val128_thirteenBit_clear_low]

/-- Settles O18: bit 7 of a byte is set from 128 on, and the power-on default is the byte 0. -/
theorem ldcfgRoutesTheConfigurationByte : Obligations.LdcfgRoutesTheConfigurationByte := by
  intro b s
  rw [← setWidth_eq_zero_append_byte, ← zext16_eq_append, ← flagRes_eq, ← flagCfgz_eq]
  exact ⟨decode_encode (.ldcfg b), (Effect.ldcfg b).exec_eq⟩

/-- Settles O19: bit 7 of a byte is clear below 128. -/
theorem ldstatRoutesTheStatusByte : Obligations.LdstatRoutesTheStatusByte := by
  intro b s
  rw [← setWidth_eq_zero_append_byte, ← zext16_eq_append, ← flagRdy_eq]
  exact ⟨decode_encode (.ldstat b), (Effect.ldstat b).exec_eq⟩

/-- Settles O20: the one effect of LDTMSB writes the latch and no flag. -/
theorem ldtmsbLatchesTheByte : Obligations.LdtmsbLatchesTheByte := by
  intro b s
  rw [← setWidth_eq_zero_append_byte, ← zext16_eq_append]
  exact ⟨decode_encode (.ldtmsb b), (Effect.ldtmsb b).exec_eq⟩

/-- Settles O21: the one effect of LDTLSB writes the latch and no flag. -/
theorem ldtlsbLatchesTheByte : Obligations.LdtlsbLatchesTheByte := by
  intro b s
  rw [← setWidth_eq_zero_append_byte, ← zext16_eq_append]
  exact ⟨decode_encode (.ldtlsb b), (Effect.ldtlsb b).exec_eq⟩

/-- Settles O22: bits 0, 1, 2 of the swapped word are bits 8, 9, 10 of the word, and the swap is a rotation. -/
theorem ldalrmExtractsTheAlarmBits : Obligations.LdalrmExtractsTheAlarmBits := by
  intro t s
  rw [← setWidth_eq_zero_append, ← swap16_eq_rotateLeft,
    ← getLsbD_swap16_low t (k := 0) (by decide), ← getLsbD_swap16_low t (k := 1) (by decide),
    ← getLsbD_swap16_low t (k := 2) (by decide)]
  exact ⟨decode_encode (.ldalrm t), (Effect.ldalrm t).exec_eq⟩

/-- Settles O23: the one effect of LDHYST writes `DOUT` and no flag. -/
theorem ldhystPassesTheByte : Obligations.LdhystPassesTheByte := by
  intro b s
  rw [← setWidth_eq_zero_append_byte, ← zext16_eq_append]
  exact ⟨decode_encode (.ldhyst b), (Effect.ldhyst b).exec_eq⟩

/-- Settles O24: the identity byte 0xCB is 203. -/
theorem ldidComparesTheIdentityByte : Obligations.LdidComparesTheIdentityByte := by
  intro b s
  rw [← setWidth_eq_zero_append_byte, ← zext16_eq_append, ← flagIdok_eq]
  exact ⟨decode_encode (.ldid b), (Effect.ldid b).exec_eq⟩

/-- Settles O25: each of the six commands ends in one effect, which puts the zero-extended byte on `DOUT`. -/
theorem byteCommandsPassTheirOperandThrough : Obligations.ByteCommandsPassTheirOperandThrough := by
  intro b s i hi
  obtain ⟨t, heffect, hexec⟩ := exists_effect i s
  refine ⟨t, hexec, byte_on_dout ?_⟩
  simp only [List.mem_cons, List.not_mem_nil, or_false] at hi
  obtain rfl | rfl | rfl | rfl | rfl | rfl := hi <;> cases heffect <;> rfl

end Sys2Proof.Machine
end

section
/-! The control commands (43_control.md): the one word of a command, and what NOP and CLR leave in the block. -/

namespace Sys2Proof.Machine

/-! ## The one word of a command (R56) -/

theorem decode_eq_some_iff {w : CommandWord} {i : Instr} : decode w = some i ↔ w = encode i :=
  ⟨fun h => (encode_of_decode h).symm, fun h => h ▸ decode_encode i⟩

/-! ## The statements -/

/-- Settles O16: NOP has one effect, which leaves the state as it is, and its word is all zeros. -/
theorem nopChangesNothing : Obligations.NopChangesNothing :=
  ⟨fun _ => Effect.nop.exec_eq, fun _ => decode_eq_some_iff⟩

/-- Settles O17: the one effect of CLR is the block reset, in which DECT finds the latch `TMSB` empty. -/
theorem clrReturnsTheBlockToReset : Obligations.ClrReturnsTheBlockToReset := by
  refine ⟨fun _ => Effect.clr.exec_eq, fun _ => decode_eq_some_iff, fun s t h => ?_⟩
  obtain rfl : t = s.resetBlock := (exec_eq_next_iff.1 h).unique .clr
  exact ⟨_, (Effect.dectMissing (.inl s.resetBlock_tmsb)).exec_eq, rfl⟩

end Sys2Proof.Machine
end

section
/-! The error codes (60_exceptions.md): the error a presented word raises, and for each code the words that raise it. -/

namespace Sys2Proof.Machine

/-! ## The number of a code (R120) -/

theorem errPort_eq_code {s : State} {e : ErrorCode} : errPort s = e.code ↔ s.err = e := by
  have hinj : Function.Injective ErrorCode.code := by
    intro a b
    cases a <;> cases b <;> decide
  exact hinj.eq_iff

theorem errPort_toNat_le (s : State) : (errPort s).toNat ≤ 4 := by
  rw [errPort]
  cases s.err <;> decide

/-! ## The error a presented word raises (R122 to R126) -/

/-- The error of a word, from the command it decodes to and the state, none where it completes. -/
def errorRaised : Option Instr → State → Option ErrorCode
  | none, _ => some .eIllcmd
  | some .dect, s => if s.tmsb = none ∨ s.tlsb = none ∨ s.flags.res = none then some .eEmpty else none
  | some (.encsp q), _ => if setpointOutOfRange (sintQ q) then some .eRange else none
  | some (.enchy q), s => hystError s.params.hystCheckOrder q
  | some _, _ => none

/-- A command other than NOP leaves in `ERR` the error it raises, or no error. -/
theorem Effect.err_eq {s t : State} {i : Instr} (hi : i ≠ .nop) (h : Effect s i t) :
    t.err = (errorRaised (some i) s).getD .eNone := by
  cases h with
  | nop => exact absurd rfl hi
  | dect m l res hm hl hr => simp [errorRaised, hm, hl, hr, State.decoded]
  | dectMissing h => simp [errorRaised, h, State.raised]
  | encsp q h | encspRange q h => simp [errorRaised, h, State.encoded, State.raised]
  | enchy q h | enchyError q e h => simp [errorRaised, h, State.encoded, State.raised]
  | _ => rfl

/-- So does a step on a presented word, whether it is a command or not. -/
theorem err_of_presented {s t : State} {w : CommandWord} {rest : List PortInput}
    (hin : s.inputs = present w :: rest) (hw : decode w ≠ some .nop) (h : step s = .next t) :
    t.err = (errorRaised (decode w) s).getD .eNone := by
  have hrun : runWord w (s.setInputs rest) = .next t := (step_of_word hin rfl rfl).symm.trans h
  cases hd : decode w with
  | none =>
    rw [runWord_of_illegal hd] at hrun
    cases hrun
    rfl
  | some i =>
    rw [runWord_of_decode hd, exec_eq_next_iff] at hrun
    have hsample : errorRaised (some i) (s.setInputs rest) = errorRaised (some i) s := by cases i <;> rfl
    exact hsample ▸ hrun.err_eq fun hi => hw (hi ▸ hd)

/-- The port shows the number of an error exactly where the word raises that error. -/
theorem errPort_of_presented {s t : State} {w : CommandWord} {rest : List PortInput}
    (hin : s.inputs = present w :: rest) (hw : decode w ≠ some .nop) (h : step s = .next t) {e : ErrorCode}
    (he : e ≠ .eNone) : errPort t = e.code ↔ errorRaised (decode w) s = some e := by
  rw [errPort_eq_code, err_of_presented hin hw h]
  cases errorRaised (decode w) s <;> simp [he.symm]

/-! ## The causes of each error -/

/-- ENCHY's checks raise `E_RANGE` and `E_NONINT` and no other error (R88). -/
theorem hystError_ne_some {o : HystCheckOrder} {q : QWord} {e : ErrorCode} (hr : e ≠ .eRange) (hn : e ≠ .eNonint) :
    hystError o q ≠ some e := fun h => (hystError_cases h).elim hr hn

theorem errorRaised_eq_eIllcmd {d : Option Instr} {s : State} : errorRaised d s = some .eIllcmd ↔ d = none := by
  cases d with
  | none => simp [errorRaised]
  | some i =>
    cases i with
    | enchy q => simp [errorRaised, hystError_ne_some]
    | _ => simp [errorRaised]

theorem errorRaised_eq_eEmpty {d : Option Instr} {s : State} : errorRaised d s = some .eEmpty ↔
    d = some .dect ∧ (s.tmsb = none ∨ s.tlsb = none ∨ s.flags.res = none) := by
  cases d with
  | none => simp [errorRaised]
  | some i =>
    cases i with
    | dect => simp [errorRaised, or_iff_not_imp_left]
    | enchy q => simp [errorRaised, hystError_ne_some]
    | _ => simp [errorRaised]

theorem errorRaised_eq_eRange {d : Option Instr} {s : State} : errorRaised d s = some .eRange ↔ ∃ q,
    (d = some (.encsp q) ∧ (q.toInt < -2621440 ∨ 8192000 < q.toInt)) ∨
    (d = some (.enchy q) ∧ (q.toInt < 0 ∨ 983040 < q.toInt) ∧
      (q.toInt % 65536 = 0 ∨ s.params.hystCheckOrder = .rangeFirst)) := by
  cases d with
  | none => simp [errorRaised]
  | some i =>
    cases i with
    | encsp q => simp [errorRaised, setpointOutOfRange_eq, sintQ, or_iff_not_imp_left]
    | enchy q => simp [errorRaised, hystError_eq_eRange]
    | _ => simp [errorRaised]

theorem errorRaised_eq_eNonint {d : Option Instr} {s : State} : errorRaised d s = some .eNonint ↔
    ∃ q, d = some (.enchy q) ∧ q.toInt % 65536 ≠ 0 ∧
      ((0 ≤ q.toInt ∧ q.toInt ≤ 983040) ∨ s.params.hystCheckOrder = .wholeFirst) := by
  cases d with
  | none => simp [errorRaised]
  | some i =>
    cases i with
    | enchy q => simp [errorRaised, hystError_eq_eNonint]
    | _ => simp [errorRaised]

/-! ## The statement -/

/-- Settles O46: the port shows the error the word raises, and each error has the causes shown above. -/
theorem eachErrorCodeHasItsCauses : Obligations.EachErrorCodeHasItsCauses := by
  intro s t w rest hin hw h
  have hport {e : ErrorCode} (he : e ≠ .eNone) : errPort t = e.code ↔ errorRaised (decode w) s = some e :=
    errPort_of_presented hin hw h he
  exact ⟨(hport (e := .eIllcmd) nofun).trans errorRaised_eq_eIllcmd,
    (hport (e := .eEmpty) nofun).trans errorRaised_eq_eEmpty,
    (hport (e := .eRange) nofun).trans errorRaised_eq_eRange,
    (hport (e := .eNonint) nofun).trans errorRaised_eq_eNonint, errPort_toNat_le t⟩

end Sys2Proof.Machine
end
